-- ==== Sys2Proof/Word.lean ====
section
/-! DEFINITION. The widths of the FCE (00_scope R11, R12): every value is an unsigned bit vector. -/

namespace Sys2Proof

/-- An unsigned 8-bit value, `u8` (R12). -/
abbrev Byte := BitVec 8

/-- An unsigned 16-bit value, `u16` (R12): a declared length. -/
abbrev U16 := BitVec 16

/-- A host register-space address, 12 bits (R11, R23). -/
abbrev Addr := BitVec 12

/-- An index into one of the two 1024-byte buffers (R11, R31, R32). -/
abbrev BufIndex := BitVec 10

/-- The engine's byte index `idx`, 11 bits (R11, R36). -/
abbrev FrameIndex := BitVec 11

end Sys2Proof
end

