-- ==== Sys2Proof/Syntax.lean ====
section
/-! DEFINITION. Syntax: the CTRL operations (30_encoding R69-R71), the steps the agents take
(00_scope R5), and the logical frame (R17, R61). -/

namespace Sys2Proof

/-- What a byte written to CTRL stands for: one constructor per mnemonic of the opcode table. The
table's eight ILLEGAL rows, five of which overlap, share the constructor that carries the byte. -/
inductive Instr where
  /-- CTRL = 0x01 (41_checksum R86). -/
  | csumCompute
  /-- CTRL = 0x02 (41_checksum R87). -/
  | csumValidate
  /-- CTRL = 0x03 (42_frame_decode R88). -/
  | decode
  /-- CTRL = 0x04 (43_frame_encode R110). -/
  | encode
  /-- CTRL = 0x05 (43_frame_encode R111). -/
  | encodeEmpty
  /-- Every other CTRL byte `v` (30_encoding R71, 40_control R76). -/
  | illegal (v : Byte)
  deriving DecidableEq, Repr

/-- The byte sink's answer to an offered byte (20_memory R53). -/
inductive SinkAnswer where
  | accept
  | reject
  | wait
  deriving DecidableEq, Repr, Inhabited

/-- One atomic step of one of the four agents (00_scope R5, R6). -/
inductive Action where
  /-- The host's `MemRead(addr, 1)` (20_memory R42). -/
  | hostRead (addr : Addr)
  /-- The host's `MemWrite(addr, 1, v)` (20_memory R43). -/
  | hostWrite (addr : Addr) (v : Byte)
  /-- Reset, by the host or the platform (70_reset_and_hazards R138). -/
  | reset
  /-- The byte source's `RxArrive(b)` (20_memory R51). -/
  | arrive (b : Byte)
  /-- An engine step; `answer` is the sink's answer should the step offer a byte (20_memory R53). -/
  | engine (answer : SinkAnswer)
  deriving DecidableEq, Repr, Inhabited

/-- The logical frame, without sync marker and checksum (00_scope R17, 30_encoding R61). -/
structure Frame where
  version : Byte
  command : Byte
  payload : List Byte
  deriving DecidableEq, Repr

end Sys2Proof
end

