-- ==== Sys2Proof/Config.lean ====
section
/-! DEFINITION. The implementation parameters (00_scope R7-R10) and the model's free values. -/

namespace Sys2Proof

/-- What becomes of the unread bytes after a terminal outcome (00_scope R9, 90_conflicts C1). -/
inductive RemainderPolicy where
  | discard
  | retain
  deriving DecidableEq, Repr, Inhabited

/-- The parameters of one FCE instance. A field's default is the spec's; `rxSourceCapacity` is OPEN
in the spec (R10), and `none` (unbounded) is a DESIGN CHOICE, log entry 5. -/
structure Params where
  /-- CSUM_INCLUDES_SYNC (R8). -/
  csumIncludesSync : Bool := false
  /-- REMAINDER_POLICY (R9). -/
  remainderPolicy : RemainderPolicy := .discard
  /-- RX_SOURCE_CAPACITY (R10). -/
  rxSourceCapacity : Option Nat := none
  deriving DecidableEq, Repr, Inhabited

/-- MAX_PAYLOAD (R7). -/
abbrev Config.maxPayload : Nat := 1024

/-- FREE VALUE (log entry 4): which agent moves when State.agenda fixes nothing, and with what byte,
address or answer. The spec leaves it open (R6, R51, R53, R147), so nothing constrains it. -/
opaque Config.freeAction : Nat → Action

/-- FREE VALUE (log entry 13): the high length byte that RX_LENL takes with its low byte while RX_LEN_HI
holds ⊥. No run reaches that state, and the spec states no value there, so nothing constrains it. -/
opaque Config.freeLenHi : Byte → Byte

end Sys2Proof
end

