-- ==== Sys2Proof/Machine/State.lean ====
section
/-! DEFINITION. The state of the FCE and of the environment it steps with (10_state; 20_memory R51,
R55), the fault reasons, and the reset state. -/

namespace Sys2Proof.Machine

open Sys2Proof

/-- The engine's position in its state machine (10_state R33). -/
inductive Phase where
  | idle
  | cs
  | rxHunt
  | rxSync1
  | rxVer
  | rxCmd
  | rxLenH
  | rxLenL
  | rxPay
  | rxCsum
  | rxDrain
  | txStart
  | txEmit
  | txFlush
  deriving DecidableEq, Repr

/-- The operation in progress (10_state R34). -/
inductive Operation where
  | none
  | csumCompute
  | csumValidate
  | decode
  | encode
  | encodeEmpty
  deriving DecidableEq, Repr

/-- The result codes 0x0 to 0x7 (10_state R25). The codes 0x8-0xF are never produced, so the type
has no name for them. -/
inductive Result where
  | none
  | ok
  | noData
  | checksumMismatch
  | overflow
  | tooLarge
  | sinkReject
  | illegalOp
  deriving DecidableEq, Repr

/-- STATUS by its fields (10_state R25). The byte the host reads is `Status.toByte`. -/
structure Status where
  busy : Bool
  frameValid : Bool
  csumMatch : Bool
  reqDropped : Bool
  result : Result
  deriving DecidableEq, Repr

/-- The pending result of a DECODE that drains (10_state R38). -/
structure Pending where
  code : Result
  valid : Bool
  csumMatch : Bool
  deriving DecidableEq, Repr

/-- What the sink took (20_memory R55). -/
inductive TxEvent where
  | byte (b : Byte)
  | flush
  deriving DecidableEq, Repr

/-- Storage that can hold ⊥ and whose read can therefore fault (60_exceptions R126). -/
inductive Storage where
  | rxVer
  | rxCmd
  | rxLenHi
  | rxLenLo
  | rxCsum
  | calcCsum
  | rxBuf (i : BufIndex)
  | txBuf (i : BufIndex)
  deriving DecidableEq, Repr

/-- The model's fault reasons (60_exceptions R126), which are no hardware results (00_scope R16). -/
inductive Fault where
  /-- Storage `r` was read, or a TX_BUF byte needed, while it holds ⊥. Raised by a host read
  (20_memory R42) and by the engine steps of CSUM_COMPUTE, CSUM_VALIDATE and ENCODE; answered by
  every later step, since a faulted state has none (10_state R39). Safe: the hardware returns some
  byte and goes on. -/
  | unwritten (r : Storage)
  deriving DecidableEq, Repr

/-- Why a step could have no meaning. -/
inductive Refusal where
  /-- An instruction without a meaning. No arm of exec raises it. Safe. -/
  | notModelled (mnemonic : String)
  deriving DecidableEq, Repr

/-- The two buffers, as (register-space address, byte) pairs (10_state R31, R32): RX_BUF[i] at
0x400 + i, TX_BUF[i] at 0x800 + i. Canonical form: `Memory.wf`. -/
abbrev Memory := List Host.Cell

/-- The whole state. `none` in an `Option Byte` is the spec's ⊥, unwritten since reset (00_scope
R14), which R138 makes the reset value. -/
structure State where
  /-- STATUS (R25). -/
  status : Status
  /-- RX_VER (R26). -/
  rxVer : Option Byte
  /-- RX_CMD (R26). -/
  rxCmd : Option Byte
  /-- RX_LEN_HI (R26). -/
  rxLenHi : Option Byte
  /-- RX_LEN_LO (R26). -/
  rxLenLo : Option Byte
  /-- RX_CSUM (R27). -/
  rxCsum : Option Byte
  /-- CALC_CSUM (R28). -/
  calcCsum : Option Byte
  /-- TX_VER (R29). -/
  txVer : Byte
  /-- TX_CMD (R29). -/
  txCmd : Byte
  /-- TX_LEN_HI (R29). -/
  txLenHi : Byte
  /-- TX_LEN_LO (R29). -/
  txLenLo : Byte
  /-- CSUM_EXPECT (R30). -/
  csumExpect : Byte
  /-- RX_BUF and TX_BUF (R31, R32). -/
  mem : Memory
  /-- The engine's phase (R33). -/
  phase : Phase
  /-- The operation in progress (R34). -/
  op : Operation
  /-- The checksum accumulator (R35). -/
  acc : Byte
  /-- The byte index (R36). -/
  idx : FrameIndex
  /-- The latched declared length (R37). -/
  len : U16
  /-- The pending result (R38). -/
  pend : Pending
  /-- The model's fault mark (R39). -/
  fault : Option Fault
  /-- RXQ, the byte source's queue, head first (20_memory R51). -/
  rxq : List Byte
  /-- TXLOG, the sink's record, oldest first (20_memory R55). -/
  txlog : List TxEvent
  /-- The instance's parameters (00_scope R7-R10). No step changes them (log entry 2). -/
  params : Params
  /-- MODEL's own: the agents' steps that come next, first one first (log entry 3). -/
  agenda : List Action
  /-- MODEL's own: how many steps were drawn freely (log entry 4). -/
  turn : Nat
  /-- MODEL's own: what the host's reads returned, oldest first (log entry 6). -/
  hostReads : List (Addr × Byte)
  deriving DecidableEq, Repr

/-- The state right after reset at the start of a run (70_reset_and_hazards R138, R139). The six registers
RX_VER to CALC_CSUM and every byte of both buffers hold ⊥, the reset value R138 writes into them. The
run starts with the default parameters, no byte waiting and nothing scheduled (log entry 5). -/
def State.reset : State where
  status := ⟨false, false, false, false, .none⟩
  rxVer := none
  rxCmd := none
  rxLenHi := none
  rxLenLo := none
  rxCsum := none
  calcCsum := none
  txVer := 0x00
  txCmd := 0x00
  txLenHi := 0x00
  txLenLo := 0x00
  csumExpect := 0x00
  mem := []
  phase := .idle
  op := .none
  acc := 0x00
  idx := 0
  len := 0
  pend := ⟨.none, false, false⟩
  fault := none
  rxq := []
  txlog := []
  params := ⟨false, .discard, none⟩
  agenda := []
  turn := 0
  hostReads := []

/-- The state at the start of any run (R139): the reset state under parameters `p`, with RXQ any
finite sequence `q`, and `agenda` the steps to come. -/
def State.launch (p : Params) (q : List Byte) (agenda : List Action) : State :=
  { State.reset with params := p, rxq := q, agenda := agenda }

end Sys2Proof.Machine
end

