-- ==== Sys2Proof/Machine/Flags.lean ====
section
/-! DEFINITION. STATUS: its byte and every computation of its flags (10_state R25, R40; 40_control
R75-R78). -/

namespace Sys2Proof.Machine

open Sys2Proof

/-- The RESULT code (10_state R25). -/
def Result.code : Result → BitVec 4
  | .none => 0x0
  | .ok => 0x1
  | .noData => 0x2
  | .checksumMismatch => 0x3
  | .overflow => 0x4
  | .tooLarge => 0x5
  | .sinkReject => 0x6
  | .illegalOp => 0x7

/-- One flag as a one-bit field. -/
def flagBit (b : Bool) : BitVec 1 := if b then 1 else 0

/-- STATUS as the host reads it (R25): RESULT 7:4, REQ_DROPPED 3, CSUM_MATCH 2, FRAME_VALID 1, BUSY 0. -/
def Status.toByte (st : Status) : Byte :=
  st.result.code ++ flagBit st.reqDropped ++ flagBit st.csumMatch ++ flagBit st.frameValid
    ++ flagBit st.busy

/-- STATUS after an accept (40_control R77). -/
def statusAccepted : Status := ⟨true, false, false, false, .none⟩

/-- STATUS after an illegal CTRL write (R76): BUSY stays 0. -/
def statusIllegal (st : Status) : Status := ⟨st.busy, false, false, false, .illegalOp⟩

/-- STATUS after a dropped write (R75): REQ_DROPPED alone changes. -/
def statusDropped (st : Status) : Status := { st with reqDropped := true }

/-- STATUS at completion (R78): REQ_DROPPED is kept. -/
def statusCompleted (code : Result) (valid csumMatch : Bool) (st : Status) : Status :=
  ⟨false, valid, csumMatch, st.reqDropped, code⟩

end Sys2Proof.Machine
end

