-- ==== Sys2Proof/Machine/Ops.lean ====
section
/-! DEFINITION. The named operations over memory, registers and streams that every meaning shares:
⊥, faults, the streams (20_memory R51-R55), starting and ending an operation (40_control R75-R78),
the terminal outcome (42_frame_decode R100) and reset (70_reset_and_hazards R138). -/

namespace Sys2Proof.Machine

open Sys2Proof

/-! ### Memory -/

/-- What an address nothing has written holds: ⊥ (R138). -/
def Memory.unlisted : Option Byte := none

/-- The byte at a register-space address of the buffers, or ⊥. -/
def Memory.read : Memory → Nat → Option Byte
  | [], _ => Memory.unlisted
  | (k, b) :: m, a => if a = k then some b else Memory.read m a

/-- Write one byte and keep the canonical form. No byte equals ⊥, so no write removes an entry. -/
def Memory.write : Memory → Nat → Byte → Memory
  | [], a, v => [(a, v)]
  | (k, b) :: m, a, v =>
    if a < k then (a, v) :: (k, b) :: m
    else if a = k then (a, v) :: m
    else (k, b) :: Memory.write m a v

/-- The canonical form: addresses strictly rising, all of them of RX_BUF or TX_BUF (R23). -/
abbrev Memory.wf (m : Memory) : Prop :=
  m.Pairwise (fun c d => c.1 < d.1) ∧ ∀ c ∈ m, 0x400 ≤ c.1 ∧ c.1 < 0xC00

/-- The `n` bytes from address `a` up, or the lowest address among them that holds ⊥. -/
def Memory.readRun (m : Memory) (a : Nat) : Nat → Except Nat (List Byte)
  | 0 => .ok []
  | n + 1 =>
    match Memory.read m a with
    | none => .error a
    | some b =>
      match Memory.readRun m (a + 1) n with
      | .error e => .error e
      | .ok bs => .ok (b :: bs)

/-- The address of RX_BUF[i] (R31). -/
def rxBufAddr (i : BufIndex) : Nat := 0x400 + i.toNat

/-- The address of TX_BUF[i] (R32). -/
def txBufAddr (i : BufIndex) : Nat := 0x800 + i.toNat

/-- The index of a buffer byte from its address: both buffers start at a multiple of 1024. -/
def bufIndex (a : Nat) : BufIndex := BitVec.ofNat 10 a

/-! ### Faults -/

/-- Reach `fault` (00_scope R16, 10_state R39): the mark is set and nothing else changes. -/
def State.raise (f : Fault) (s : State) : State := { s with fault := some f }

/-- Take the value of storage `r`, or its fault if it holds ⊥ (R14). -/
def orUnwritten (r : Storage) : Option Byte → Except Fault Byte
  | none => .error (.unwritten r)
  | some v => .ok v

/-! ### Streams -/

/-- `Avail()` (20_memory R51). -/
def State.avail (s : State) : Bool := !s.rxq.isEmpty

/-- Take the head of RXQ and go on with it; with RXQ empty, go on with `empty` (R52). -/
def State.popOr (s : State) (empty : State) (go : Byte → State → State) : State :=
  match s.rxq with
  | [] => empty
  | b :: rest => go b { s with rxq := rest }

/-- `RxArrive(b)` (R51): append, or lose the byte when RXQ is full. -/
def rxArrive (b : Byte) (s : State) : State :=
  match s.params.rxSourceCapacity with
  | none => { s with rxq := s.rxq ++ [b] }
  | some n => if s.rxq.length < n then { s with rxq := s.rxq ++ [b] } else s

/-- The sink takes an event (R53 on accept, R54). -/
def State.emit (e : TxEvent) (s : State) : State := { s with txlog := s.txlog ++ [e] }

/-- `acc <- acc +8 b` (10_state R35). -/
def State.addAcc (b : Byte) (s : State) : State := { s with acc := s.acc + b }

/-! ### Starting and ending an operation -/

/-- `Drop()` (40_control R75). -/
def dropWrite (s : State) : State := { s with status := statusDropped s.status }

/-- `Illegal()` (R76). -/
def illegalWrite (s : State) : State := { s with status := statusIllegal s.status }

/-- The phase an operation starts in (R77). -/
def startPhase : Operation → Phase
  | .none => .idle
  | .csumCompute => .cs
  | .csumValidate => .cs
  | .decode => .rxHunt
  | .encode => .txStart
  | .encodeEmpty => .txStart

/-- `Accept(OP)` (R77). -/
def accept (o : Operation) (s : State) : State :=
  { s with status := statusAccepted, op := o, phase := startPhase o }

/-- `complete(code, valid, match)` (R78): how every operation ends, an error's entry included
(60_exceptions R128). -/
def complete (code : Result) (valid csumMatch : Bool) (s : State) : State :=
  { s with status := statusCompleted code valid csumMatch s.status, op := .none, phase := .idle }

/-- `Terminal(code, valid, match)` (42_frame_decode R100). -/
def terminal (code : Result) (valid csumMatch : Bool) (s : State) : State :=
  match s.params.remainderPolicy with
  | .discard => { s with pend := ⟨code, valid, csumMatch⟩, phase := .rxDrain }
  | .retain => complete code valid csumMatch s

/-- A host write to CTRL in a state with no fault (R74): dropped while BUSY = 1, else `go`. -/
def ctrlWrite (go : State → State) (s : State) : Host.Outcome State Fault Refusal :=
  match s.fault with
  | some f => .fault f
  | none => .next (if s.status.busy then dropWrite s else go s)

/-! ### Reset -/

/-- `Reset()` (70_reset_and_hazards R138): every piece of FCE state, RX_VER to CALC_CSUM and both
buffers to ⊥ as R138 writes it, and neither the environment's streams nor the fault mark. -/
def resetFce (s : State) : State :=
  { State.reset with
    fault := s.fault
    rxq := s.rxq
    txlog := s.txlog
    params := s.params
    agenda := s.agenda
    turn := s.turn
    hostReads := s.hostReads }

end Sys2Proof.Machine
end

