-- ==== Sys2Proof/Machine/Operands.lean ====
section
/-! DEFINITION. Operands: byte order (20_memory R48, 30_encoding R63), the declared length, the
checksum function (41_checksum R82), the wire frame (30_encoding R61, 43_frame_encode R109), and
the transmit payload. -/

namespace Sys2Proof.Machine

open Sys2Proof

/-- `v[15:8]`. -/
def hiByte (v : U16) : Byte := v.extractLsb' 8 8

/-- `v[7:0]`. -/
def loByte (v : U16) : Byte := v.extractLsb' 0 8

/-- `hi:lo = hi * 256 + lo` (R63). -/
def u16 (hi lo : Byte) : U16 := hi ++ lo

/-- `TX_LEN = TX_LEN_HI:TX_LEN_LO` (10_state R29). -/
def State.txLen (s : State) : U16 := u16 s.txLenHi s.txLenLo

/-- SEED (41_checksum R82): 0xFF = 0x55 + 0xAA when the sync bytes are summed, else 0x00. -/
def seed (p : Params) : Byte := if p.csumIncludesSync then 0xFF else 0x00

/-- `Σ8` (00_scope R13). -/
def sum8 : List Byte → Byte
  | [] => 0
  | b :: bs => b + sum8 bs

/-- `Checksum(ver, cmd, L, P)` (41_checksum R82). -/
def checksum (p : Params) (ver cmd : Byte) (L : U16) (P : List Byte) : Byte :=
  seed p + ver + cmd + hiByte L + loByte L + sum8 P

/-- A frame with stored checksum `k` is valid (R83). -/
def frameIsValid (p : Params) (f : Frame) (k : Byte) : Bool :=
  k = checksum p f.version f.command (BitVec.ofNat 16 f.payload.length) f.payload

/-- `FrameBytes(ver, cmd, L, P)` with L = |P| (43_frame_encode R109). -/
def frameBytes (p : Params) (f : Frame) : List Byte :=
  let L : U16 := BitVec.ofNat 16 f.payload.length
  [0x55, 0xAA, f.version, f.command, hiByte L, loByte L] ++ f.payload
    ++ [checksum p f.version f.command L f.payload]

/-- `FrameByte(k)` (43_frame_encode R109); R109 gives it for k ≤ 6 + |P|. -/
def frameByte (p : Params) (f : Frame) (k : Nat) : Byte :=
  let L : U16 := BitVec.ofNat 16 f.payload.length
  match k with
  | 0 => 0x55
  | 1 => 0xAA
  | 2 => f.version
  | 3 => f.command
  | 4 => hiByte L
  | 5 => loByte L
  | n + 6 => f.payload.getD n (checksum p f.version f.command L f.payload)

/-- TX_BUF[0..L-1], or the fault of its lowest unwritten byte (41_checksum R86, 60_exceptions
R127.3). -/
def State.txPayload (s : State) (L : U16) : Except Fault (List Byte) :=
  match Memory.readRun s.mem 0x800 L.toNat with
  | .ok bs => .ok bs
  | .error a => .error (.unwritten (.txBuf (bufIndex a)))

end Sys2Proof.Machine
end

