-- ==== Sys2Proof/Machine/Checksum.lean ====
section
/-! DEFINITION. CSUM_COMPUTE and CSUM_VALIDATE: their CTRL writes and their engine steps
(41_checksum R86, R87). -/

namespace Sys2Proof.Machine

open Sys2Proof

/-- CTRL = 0x01 (R86, 40_control R74, R77). -/
def execCsumCompute (s : State) : Host.Outcome State Fault Refusal :=
  ctrlWrite (accept .csumCompute) s

/-- CTRL = 0x02 (R87, 40_control R74, R77). -/
def execCsumValidate (s : State) : Host.Outcome State Fault Refusal :=
  ctrlWrite (accept .csumValidate) s

/-- The one engine step R86 and R87 share: TOO_LARGE first, then an unwritten byte's fault, then
CALC_CSUM and OK, with CSUM_MATCH computed from the checksum. -/
def csumStep (csumMatch : Byte → Bool) (s : State) : State :=
  if Config.maxPayload < s.txLen.toNat then complete .tooLarge false false s
  else
    match s.txPayload s.txLen with
    | .error f => s.raise f
    | .ok P =>
      let c := checksum s.params s.txVer s.txCmd s.txLen P
      complete .ok false (csumMatch c) { s with calcCsum := some c }

/-- Phase CS of CSUM_COMPUTE (R86). -/
def csumComputeStep (s : State) : State := csumStep (fun _ => false) s

/-- Phase CS of CSUM_VALIDATE (R87). -/
def csumValidateStep (s : State) : State := csumStep (fun c => c == s.csumExpect) s

end Sys2Proof.Machine
end

