-- ==== Sys2Proof/Machine/FrameDecode.lean ====
section
/-! DEFINITION. DECODE: its CTRL write and the receive path's engine steps, one per phase
(42_frame_decode R88-R101). -/

namespace Sys2Proof.Machine

open Sys2Proof

/-- CTRL = 0x03 (R88, 40_control R74, R77). -/
def execDecode (s : State) : Host.Outcome State Fault Refusal :=
  ctrlWrite (accept .decode) s

/-- Phase RX_HUNT (R89). -/
def rxHuntStep (s : State) : State :=
  s.popOr (complete .noData false false s) fun b s =>
    if b = 0x55 then { s with phase := .rxSync1 } else { s with phase := .rxHunt }

/-- Phase RX_SYNC1 (R90): detection overlaps. -/
def rxSync1Step (s : State) : State :=
  s.popOr (complete .noData false false s) fun b s =>
    if b = 0xAA then { s with acc := seed s.params, phase := .rxVer }
    else if b = 0x55 then { s with phase := .rxSync1 }
    else { s with phase := .rxHunt }

/-- Phase RX_VER (R93). -/
def rxVerStep (s : State) : State :=
  s.popOr s fun b s => { s.addAcc b with rxVer := some b, phase := .rxCmd }

/-- Phase RX_CMD (R94). -/
def rxCmdStep (s : State) : State :=
  s.popOr s fun b s => { s.addAcc b with rxCmd := some b, phase := .rxLenH }

/-- Phase RX_LENH (R95). -/
def rxLenHStep (s : State) : State :=
  s.popOr s fun b s => { s.addAcc b with rxLenHi := some b, phase := .rxLenL }

/-- The overflow check of R96, once `len` is latched. -/
def rxLenCheck (s : State) : State :=
  if Config.maxPayload < s.len.toNat then terminal .overflow false false s
  else if s.len = 0 then { s with phase := .rxCsum }
  else { s with idx := 0, phase := .rxPay }

/-- RX_LEN_HI, holding `hi`, as RX_LENL reads it beside the low byte `b` (R96). Every DECODE wrote it one
byte earlier; in a state where it holds ⊥ (none is reached) the byte is a free value, since DECODE never
faults (R88; log entry 13). -/
def receivedLenHi (hi : Option Byte) (b : Byte) : Byte := hi.getD (Config.freeLenHi b)

/-- Phase RX_LENL (R96). -/
def rxLenLStep (s : State) : State :=
  s.popOr s fun b s =>
    rxLenCheck { s.addAcc b with rxLenLo := some b, len := u16 (receivedLenHi s.rxLenHi b) b }

/-- Phase RX_PAY (R97). `idx` is below 1024 there, so its low ten bits are the buffer index. -/
def rxPayStep (s : State) : State :=
  s.popOr s fun b s =>
    let t := { s.addAcc b with mem := Memory.write s.mem (rxBufAddr (s.idx.setWidth 10)) b }
    if s.idx.toNat + 1 = s.len.toNat then { t with phase := .rxCsum }
    else { t with idx := s.idx + 1 }

/-- Phase RX_CSUM (R98). -/
def rxCsumStep (s : State) : State :=
  s.popOr s fun b s =>
    let t := { s with rxCsum := some b, calcCsum := some s.acc }
    if b = s.acc then terminal .ok true true t else terminal .checksumMismatch false false t

/-- Phase RX_DRAIN (R101). -/
def rxDrainStep (s : State) : State :=
  s.popOr (complete s.pend.code s.pend.valid s.pend.csumMatch s) fun _ s => s

end Sys2Proof.Machine
end

