-- ==== Sys2Proof/Machine/FrameEncode.lean ====
section
/-! DEFINITION. ENCODE and ENCODE_EMPTY: their CTRL writes and the transmit path's engine steps
(43_frame_encode R110-R114). -/

namespace Sys2Proof.Machine

open Sys2Proof

/-- CTRL = 0x04 (R110, 40_control R74, R77). -/
def execEncode (s : State) : Host.Outcome State Fault Refusal :=
  ctrlWrite (accept .encode) s

/-- CTRL = 0x05 (R111, 40_control R74, R77). -/
def execEncodeEmpty (s : State) : Host.Outcome State Fault Refusal :=
  ctrlWrite (accept .encodeEmpty) s

/-- The length TX_START takes (R112): 0 for ENCODE_EMPTY, which does not read TX_LEN. -/
def State.encodeLen (s : State) : U16 :=
  match s.op with
  | .encodeEmpty => 0
  | _ => s.txLen

/-- Phase TX_START (R112). -/
def txStartStep (s : State) : State :=
  if Config.maxPayload < s.encodeLen.toNat then complete .tooLarge false false s
  else { s with len := s.encodeLen, idx := 0, acc := seed s.params, phase := .txEmit }

/-- The frame byte at position `idx` (R113): a payload byte that holds ⊥ is its fault, and the
position after the payload is the checksum, which is `acc`. -/
def State.offered (s : State) : Except Fault Byte :=
  match s.idx.toNat with
  | 0 => .ok 0x55
  | 1 => .ok 0xAA
  | 2 => .ok s.txVer
  | 3 => .ok s.txCmd
  | 4 => .ok (hiByte s.len)
  | 5 => .ok (loByte s.len)
  | n + 6 =>
    if n < s.len.toNat then
      orUnwritten (.txBuf (bufIndex n)) (Memory.read s.mem (txBufAddr (bufIndex n)))
    else .ok s.acc

/-- The sink accepted byte `b` at position `idx` (R113). -/
def txAccepted (b : Byte) (s : State) : State :=
  let t := s.emit (.byte b)
  let t := if 2 ≤ s.idx.toNat ∧ s.idx.toNat ≤ 5 + s.len.toNat then t.addAcc b else t
  if s.idx.toNat = 6 + s.len.toNat then { t with calcCsum := some b, phase := .txFlush }
  else { t with idx := s.idx + 1 }

/-- Phase TX_EMIT (R113): one offer and the sink's answer (20_memory R53). -/
def txEmitStep (answer : SinkAnswer) (s : State) : State :=
  match s.offered with
  | .error f => s.raise f
  | .ok b =>
    match answer with
    | .wait => s
    | .reject => complete .sinkReject false false s
    | .accept => txAccepted b s

/-- Phase TX_FLUSH (R114). -/
def txFlushStep (s : State) : State := complete .ok false false (s.emit .flush)

end Sys2Proof.Machine
end

