-- ==== Sys2Proof/Machine/Engine.lean ====
section
/-! DEFINITION. The engine agent: which phase has an enabled step, and the step (10_state R33;
40_control R80; 42_frame_decode R88, R92; 43_frame_encode R112-R114). -/

namespace Sys2Proof.Machine

open Sys2Proof

/-- The engine has an enabled step (40_control R80): an operation is in progress, no fault is
marked, a phase that needs a byte has one (42_frame_decode R92), and phase CS has one of the two
operations that use it (41_checksum R86, R87). -/
def State.engineEnabled (s : State) : Bool :=
  s.fault.isNone &&
    match s.phase with
    | .idle => false
    | .cs => s.op = .csumCompute || s.op = .csumValidate
    | .rxHunt => true
    | .rxSync1 => true
    | .rxVer => s.avail
    | .rxCmd => s.avail
    | .rxLenH => s.avail
    | .rxLenL => s.avail
    | .rxPay => s.avail
    | .rxCsum => s.avail
    | .rxDrain => true
    | .txStart => true
    | .txEmit => true
    | .txFlush => true

/-- The step of the current phase; `answer` is the sink's, should the step offer a byte. -/
def phaseStep (answer : SinkAnswer) (s : State) : State :=
  match s.phase with
  | .idle => s
  | .cs => if s.op = .csumValidate then csumValidateStep s else csumComputeStep s
  | .rxHunt => rxHuntStep s
  | .rxSync1 => rxSync1Step s
  | .rxVer => rxVerStep s
  | .rxCmd => rxCmdStep s
  | .rxLenH => rxLenHStep s
  | .rxLenL => rxLenLStep s
  | .rxPay => rxPayStep s
  | .rxCsum => rxCsumStep s
  | .rxDrain => rxDrainStep s
  | .txStart => txStartStep s
  | .txEmit => txEmitStep answer s
  | .txFlush => txFlushStep s

/-- The engine's turn: its step if it has one, else a hold with nothing changed (00_scope R15). -/
def engineTurn (answer : SinkAnswer) (s : State) : State :=
  if s.engineEnabled then phaseStep answer s else s

/-- Turns of the engine alone, one for each of the sink's answers. -/
def engineRun : List SinkAnswer → State → State
  | [], s => s
  | a :: as, s => engineRun as (engineTurn a s)

end Sys2Proof.Machine
end

