-- ==== Sys2Proof/WellFormed.lean ====
section
/-! DEFINITION. What is well formed: an instruction, a frame, a set of parameters. -/

namespace Sys2Proof

/-- `illegal v` stands only for a byte that selects no operation (30_encoding R71): not 0x01..0x05.
The other constructors carry nothing to check. -/
def Instr.wf : Instr → Bool
  | .csumCompute => true
  | .csumValidate => true
  | .decode => true
  | .encode => true
  | .encodeEmpty => true
  | .illegal v => v.toNat = 0 ∨ 6 ≤ v.toNat

/-- A frame's payload is at most MAX_PAYLOAD bytes (00_scope R7). -/
def Frame.wf (f : Frame) : Bool := f.payload.length ≤ Config.maxPayload

/-- RX_SOURCE_CAPACITY is none or at least 1 (00_scope R10). -/
def Params.wf (p : Params) : Bool :=
  match p.rxSourceCapacity with
  | none => true
  | some n => 1 ≤ n

end Sys2Proof
end

