-- ==== Sys2Proof/Decode.lean ====
section
/-! DEFINITION. The CTRL word's decoder and encoder (30_encoding R69-R71). -/

namespace Sys2Proof

/-- OP, bits 2:0 of the CTRL byte (R69). -/
def ctrlOp (v : Byte) : BitVec 3 := v.extractLsb' 0 3

/-- RSV, bits 7:3 of the CTRL byte (R69). -/
def ctrlRsv (v : Byte) : BitVec 5 := v.extractLsb' 3 5

/-- The operation a CTRL byte selects (R70); every other byte is illegal (R71). -/
def decodeCtrl (v : Byte) : Instr :=
  if ctrlRsv v = 0 then
    match (ctrlOp v).toNat with
    | 1 => .csumCompute
    | 2 => .csumValidate
    | 3 => .decode
    | 4 => .encode
    | 5 => .encodeEmpty
    | _ => .illegal v
  else .illegal v

/-- Why no instruction can be read from a list of bytes. -/
inductive DecodeError where
  /-- There is no byte: the CTRL word is one byte long (R69). -/
  | noByte
  deriving DecidableEq, Repr

/-- The instruction at the head of a list of bytes, and the bytes after it. -/
def decode : List Byte → Except DecodeError (Instr × List Byte)
  | [] => .error .noByte
  | v :: rest => .ok (decodeCtrl v, rest)

/-- The CTRL byte of an instruction: RSV = 00000 and OP as in R70, or the illegal byte itself. -/
def ctrlByte : Instr → Byte
  | .csumCompute => 0x01
  | .csumValidate => 0x02
  | .decode => 0x03
  | .encode => 0x04
  | .encodeEmpty => 0x05
  | .illegal v => v

/-- The encoding of an instruction, one byte long (R69). -/
def encode (i : Instr) : List Byte := [ctrlByte i]

/-- The CTRL byte among the bits of `w` numbered as the opcode table numbers them: its low `nbits`
bits, every bit above them zero. -/
def tableByte (nbits w : Nat) : Byte := BitVec.ofNat 8 (w % 2 ^ nbits)

/-- The instruction `decode` reads from the one CTRL byte that the opcode table's bits give. -/
def decodeTableWord (nbits w : Nat) : Option Instr :=
  match decode [tableByte nbits w] with
  | .ok (i, _) => some i
  | .error _ => none

end Sys2Proof
end

