-- ==== Sys2Proof/Machine/Control.lean ====
section
/-! DEFINITION. The illegal CTRL write (40_control R76). -/

namespace Sys2Proof.Machine

open Sys2Proof

/-- A CTRL byte that selects no operation (30_encoding R71, 40_control R74, R76). The byte itself is
not kept (60_exceptions R123), so every `v` acts alike. -/
def execIllegal (_v : Byte) (s : State) : Host.Outcome State Fault Refusal :=
  ctrlWrite illegalWrite s

end Sys2Proof.Machine
end

