-- ==== Sys2Proof/Machine/Dispatch.lean ====
section
/-! DEFINITION. exec: the host's write of an instruction's byte to CTRL (40_control R74). The
operation then runs in the engine's steps (Machine/Engine.lean). -/

namespace Sys2Proof.Machine

open Sys2Proof

def exec (i : Instr) (s : State) : Host.Outcome State Fault Refusal :=
  match i with
  | .csumCompute => Sys2Proof.Machine.execCsumCompute s
  | .csumValidate => Sys2Proof.Machine.execCsumValidate s
  | .decode => Sys2Proof.Machine.execDecode s
  | .encode => Sys2Proof.Machine.execEncode s
  | .encodeEmpty => Sys2Proof.Machine.execEncodeEmpty s
  | .illegal v => Sys2Proof.Machine.execIllegal v s

end Sys2Proof.Machine
end

