-- ==== Sys2Proof/Machine/HostAccess.lean ====
section
/-! DEFINITION. The host agent's byte accesses to the register space (20_memory R42-R47), over the
map of 10_state R23. -/

namespace Sys2Proof.Machine

open Sys2Proof

/-- What `MemRead(addr, 1)` returns, or its fault (20_memory R42, R44). -/
def memRead (a : Addr) (s : State) : Except Fault Byte :=
  match a.toNat with
  | 0x000 => .ok 0x00
  | 0x001 => .ok s.status.toByte
  | 0x002 => orUnwritten .rxVer s.rxVer
  | 0x003 => orUnwritten .rxCmd s.rxCmd
  | 0x004 => orUnwritten .rxLenHi s.rxLenHi
  | 0x005 => orUnwritten .rxLenLo s.rxLenLo
  | 0x006 => orUnwritten .rxCsum s.rxCsum
  | 0x007 => orUnwritten .calcCsum s.calcCsum
  | 0x008 => .ok s.txVer
  | 0x009 => .ok s.txCmd
  | 0x00A => .ok s.txLenHi
  | 0x00B => .ok s.txLenLo
  | 0x00C => .ok s.csumExpect
  | n =>
    if 0x400 ≤ n ∧ n < 0x800 then orUnwritten (.rxBuf (bufIndex n)) (Memory.read s.mem n)
    else if 0x800 ≤ n ∧ n < 0xC00 then orUnwritten (.txBuf (bufIndex n)) (Memory.read s.mem n)
    else .ok 0x00

/-- The host's read step: the byte goes to the host, or the fault is marked (R42). -/
def hostRead (a : Addr) (s : State) : State :=
  match memRead a s with
  | .ok v => { s with hostReads := s.hostReads ++ [(a, v)] }
  | .error f => s.raise f

/-- A host write to a writable register or TX_BUF byte: dropped while BUSY = 1 (R43, 40_control
R75), else `go`. -/
def operandWrite (go : State → State) (s : State) : State :=
  if s.status.busy then dropWrite s else go s

/-- The host's write to any address but CTRL (20_memory R43, R44). -/
def registerWrite (a : Addr) (v : Byte) (s : State) : State :=
  match a.toNat with
  | 0x008 => operandWrite (fun s => { s with txVer := v }) s
  | 0x009 => operandWrite (fun s => { s with txCmd := v }) s
  | 0x00A => operandWrite (fun s => { s with txLenHi := v }) s
  | 0x00B => operandWrite (fun s => { s with txLenLo := v }) s
  | 0x00C => operandWrite (fun s => { s with csumExpect := v }) s
  | n =>
    if 0x800 ≤ n ∧ n < 0xC00 then
      operandWrite (fun s => { s with mem := Memory.write s.mem n v }) s
    else s

/-- The host's write step (R43): a write to CTRL runs the instruction its byte decodes to. -/
def hostWrite (a : Addr) (v : Byte) (s : State) : Host.Outcome State Fault Refusal :=
  if a = 0x000 then exec (decodeCtrl v) s else .next (registerWrite a v s)

end Sys2Proof.Machine
end

