-- ==== Sys2Proof/Machine/Agents.lean ====
section
/-! DEFINITION. The agents' steps (00_scope R5, R6) and the choice of the next one. -/

namespace Sys2Proof.Machine

open Sys2Proof

/-- One atomic step of the agent that moves. -/
def act : Action → State → Host.Outcome State Fault Refusal
  | .hostRead a, s => .next (hostRead a s)
  | .hostWrite a v, s => hostWrite a v s
  | .reset, s => .next (resetFce s)
  | .arrive b, s => .next (rxArrive b s)
  | .engine answer, s => .next (engineTurn answer s)

/-- The step that comes next: the head of the agenda, else a free draw (log entries 3, 4). -/
def State.nextAction (s : State) : Action :=
  match s.agenda with
  | a :: _ => a
  | [] => Config.freeAction s.turn

/-- The state once that choice is made. -/
def State.chosen (s : State) : State :=
  match s.agenda with
  | _ :: rest => { s with agenda := rest }
  | [] => { s with turn := s.turn + 1 }

/-- A step of the whole: none in a faulted state, which answers its fault (10_state R39); else the
step of the agent chosen (20_memory R56). -/
def stepAgents (s : State) : Host.Outcome State Fault Refusal :=
  match s.fault with
  | some f => .fault f
  | none => act s.nextAction s.chosen

/-- Place the host's write of the opcode table's byte to CTRL as the step that comes next. -/
def placeCtrlWrite (v : Byte) (s : State) : State :=
  { s with agenda := .hostWrite 0x000 v :: s.agenda }

end Sys2Proof.Machine
end

