-- ==== Sys2Proof/Machine/Step.lean ====
section
/-! DEFINITION. The step of the machine, and the host's way to place an instruction. -/

namespace Sys2Proof.Machine

open Sys2Proof

/-- One atomic step (00_scope R6, 20_memory R56). -/
def step (s : State) : Host.Outcome State Fault Refusal := stepAgents s

/-- `s` with the instruction of the table's bits `w` as what the very next step runs: the FCE fetches
nothing (20_memory R59), so it is placed as the host's next access, a write to CTRL (log entry 7). -/
def State.withFetchWord (s : State) (nbits w : Nat) : State :=
  placeCtrlWrite (tableByte nbits w) s

end Sys2Proof.Machine
end

