-- ==== Sys2Proof/Safety.lean ====
section
/-! DEFINITION. What claims are stated in: a state without a fault, the invariants of control, of the
receive path and of the transmit path, and who may fault. -/

namespace Sys2Proof.Machine

open Sys2Proof

/-- No fault is marked (00_scope R16). -/
abbrev State.safe (s : State) : Prop := s.fault = none

/-- The host may start an operation: no fault and BUSY = 0 (40_control R74). -/
abbrev State.ready (s : State) : Prop := s.fault = none ∧ s.status.busy = false

/-- The phases an operation uses (10_state R33, R34; 42_frame_decode R88). -/
def phaseFits : Operation → Phase → Bool
  | .none, .idle => true
  | .csumCompute, .cs => true
  | .csumValidate, .cs => true
  | .decode, .rxHunt => true
  | .decode, .rxSync1 => true
  | .decode, .rxVer => true
  | .decode, .rxCmd => true
  | .decode, .rxLenH => true
  | .decode, .rxLenL => true
  | .decode, .rxPay => true
  | .decode, .rxCsum => true
  | .decode, .rxDrain => true
  | .encode, .txStart => true
  | .encode, .txEmit => true
  | .encode, .txFlush => true
  | .encodeEmpty, .txStart => true
  | .encodeEmpty, .txEmit => true
  | .encodeEmpty, .txFlush => true
  | _, _ => false

/-- The results a DECODE can hold while it drains (42_frame_decode R100). -/
def terminalResult (p : Pending) : Bool :=
  p = ⟨.ok, true, true⟩ || p = ⟨.checksumMismatch, false, false⟩ || p = ⟨.overflow, false, false⟩

/-- The flags agree with the phase and with each other (10_state R25, R33, R34; 40_control R77-R80). -/
abbrev FlagInv (s : State) : Prop :=
  (s.status.busy = true ↔ s.phase ≠ .idle) ∧
  phaseFits s.op s.phase = true ∧
  (s.status.busy = true →
    s.status.result = .none ∧ s.status.frameValid = false ∧ s.status.csumMatch = false) ∧
  (s.status.frameValid = true → s.status.result = .ok ∧ s.status.csumMatch = true) ∧
  (s.status.csumMatch = true → s.status.result = .ok)

/-- The engine's counters stay in range (10_state R36, R37), and a drain has a terminal result. -/
abbrev RangeInv (s : State) : Prop :=
  (s.phase = .rxPay → s.idx.toNat < s.len.toNat ∧ s.len.toNat ≤ 1024) ∧
  (s.phase = .rxCsum → s.len.toNat ≤ 1024) ∧
  (s.phase = .txEmit → s.idx.toNat ≤ 6 + s.len.toNat ∧ s.len.toNat ≤ 1024) ∧
  (s.phase = .rxDrain → s.params.remainderPolicy = .discard ∧ terminalResult s.pend = true)

/-- The control invariant: flags, ranges and the memory's canonical form. -/
abbrev ControlInv (s : State) : Prop := FlagInv s ∧ RangeInv s ∧ Memory.wf s.mem

/-- The RX registers and RX_BUF hold frame `f` with received checksum byte `k` (10_state R25-R27,
R31). -/
def RxHolds (s : State) (f : Frame) (k : Byte) : Prop :=
  f.wf = true ∧ s.rxVer = some f.version ∧ s.rxCmd = some f.command ∧
  s.rxLenHi = some (hiByte (BitVec.ofNat 16 f.payload.length)) ∧
  s.rxLenLo = some (loByte (BitVec.ofNat 16 f.payload.length)) ∧
  Memory.readRun s.mem 0x400 f.payload.length = .ok f.payload ∧ s.rxCsum = some k

/-- `acc` is the running sum of the summed bytes received so far (41_checksum R85). -/
def RxSum (s : State) : Prop :=
  match s.phase with
  | .rxVer => s.acc = seed s.params
  | .rxCmd => ∃ ver, s.rxVer = some ver ∧ s.acc = seed s.params + ver
  | .rxLenH =>
    ∃ ver cmd, s.rxVer = some ver ∧ s.rxCmd = some cmd ∧ s.acc = seed s.params + ver + cmd
  | .rxLenL =>
    ∃ ver cmd hi, s.rxVer = some ver ∧ s.rxCmd = some cmd ∧ s.rxLenHi = some hi ∧
      s.acc = seed s.params + ver + cmd + hi
  | .rxPay =>
    ∃ ver cmd P, s.rxVer = some ver ∧ s.rxCmd = some cmd ∧ s.rxLenHi = some (hiByte s.len) ∧
      s.rxLenLo = some (loByte s.len) ∧ Memory.readRun s.mem 0x400 s.idx.toNat = .ok P ∧
      s.acc = checksum s.params ver cmd s.len P
  | .rxCsum =>
    ∃ ver cmd P, s.rxVer = some ver ∧ s.rxCmd = some cmd ∧ s.rxLenHi = some (hiByte s.len) ∧
      s.rxLenLo = some (loByte s.len) ∧ Memory.readRun s.mem 0x400 s.len.toNat = .ok P ∧
      s.acc = checksum s.params ver cmd s.len P
  | _ => True

/-- The receive invariant: the accumulator is right (R85), and whenever FRAME_VALID is 1, or is about
to be published by a drain, the RX registers hold a valid frame (10_state R25, 41_checksum R83). -/
def ReceiveInv (s : State) : Prop :=
  RxSum s ∧
  (s.status.frameValid = true ∨ (s.phase = .rxDrain ∧ s.pend.valid = true) →
    ∃ f k, RxHolds s f k ∧ s.calcCsum = some k ∧ frameIsValid s.params f k = true)

/-- The transmit invariant: while bytes are offered, `len` is the operation's length and `acc` the
sum of the summed bytes accepted so far (41_checksum R85, 43_frame_encode R112, R113). -/
def TransmitInv (s : State) : Prop :=
  s.phase = .txEmit →
    s.len = s.encodeLen ∧
    ∃ P, Memory.readRun s.mem 0x800 (s.idx.toNat - 6) = .ok P ∧
      s.acc = seed s.params
        + sum8 ([s.txVer, s.txCmd, hiByte s.len, loByte s.len].take (s.idx.toNat - 2)) + sum8 P

/-- Whether an action is the engine's. -/
def isEngineAction : Action → Bool
  | .hostRead _ => false
  | .hostWrite _ _ => false
  | .reset => false
  | .arrive _ => false
  | .engine _ => true

/-- The writable addresses but CTRL: TX_VER to CSUM_EXPECT and TX_BUF (10_state R23, 20_memory R43). -/
def isOperandAddr (a : Addr) : Bool :=
  (0x008 ≤ a.toNat ∧ a.toNat ≤ 0x00C) ∨ (0x800 ≤ a.toNat ∧ a.toNat < 0xC00)

/-- The reserved addresses (20_memory R44). -/
def isReservedAddr (a : Addr) : Bool :=
  (0x00D ≤ a.toNat ∧ a.toNat < 0x400) ∨ 0xC00 ≤ a.toNat

/-- The host's read of `a` gives it `v`, and nothing else changes. -/
def ReadReturns (a : Addr) (s : State) (v : Byte) : Prop :=
  act (.hostRead a) s = .next { s with hostReads := s.hostReads ++ [(a, v)] }

/-- The host's read of `a` marks the fault Unwritten(r), and nothing else changes. -/
def ReadFaults (a : Addr) (s : State) (r : Storage) : Prop :=
  act (.hostRead a) s = .next { s with fault := some (.unwritten r) }

/-- The host's read of `a` gives what storage `r` holds, or faults on ⊥ (20_memory R42). -/
def ReadsStorage (a : Addr) (s : State) (r : Storage) : Option Byte → Prop
  | some v => ReadReturns a s v
  | none => ReadFaults a s r

/-- A frame's wire bytes with checksum byte `k`, right or wrong (30_encoding R61). -/
def wireBytes (f : Frame) (k : Byte) : List Byte :=
  [0x55, 0xAA, f.version, f.command, hiByte (BitVec.ofNat 16 f.payload.length),
    loByte (BitVec.ofNat 16 f.payload.length)] ++ f.payload ++ [k]

/-- The checksum of a frame (41_checksum R82). -/
def frameChecksum (p : Params) (f : Frame) : Byte :=
  checksum p f.version f.command (BitVec.ofNat 16 f.payload.length) f.payload

/-- The TX registers and TX_BUF hold frame `f` (10_state R29, R32). -/
def TxHolds (s : State) (f : Frame) : Prop :=
  f.wf = true ∧ s.txVer = f.version ∧ s.txCmd = f.command ∧
  s.txLen = BitVec.ofNat 16 f.payload.length ∧
  Memory.readRun s.mem 0x800 f.payload.length = .ok f.payload

/-- The bytes of a log, flushes left out. -/
def loggedBytes : List TxEvent → List Byte
  | [] => []
  | .byte b :: es => b :: loggedBytes es
  | .flush :: es => loggedBytes es

/-- The host's operand registers and TX_BUF, which no engine step writes (10_state R29, R30, R32). -/
def SameOperands (s t : State) : Prop :=
  t.txVer = s.txVer ∧ t.txCmd = s.txCmd ∧ t.txLenHi = s.txLenHi ∧ t.txLenLo = s.txLenLo ∧
  t.csumExpect = s.csumExpect ∧
  ∀ i : BufIndex, Memory.read t.mem (txBufAddr i) = Memory.read s.mem (txBufAddr i)

/-- The registers of a received frame, CALC_CSUM left out (10_state R26, R27, R31). -/
def SameRx (s t : State) : Prop :=
  t.rxVer = s.rxVer ∧ t.rxCmd = s.rxCmd ∧ t.rxLenHi = s.rxLenHi ∧ t.rxLenLo = s.rxLenLo ∧
  t.rxCsum = s.rxCsum ∧
  ∀ i : BufIndex, Memory.read t.mem (rxBufAddr i) = Memory.read s.mem (rxBufAddr i)

/-- What belongs to no operation: the parameters and the model's own fields. -/
def SameRest (s t : State) : Prop :=
  t.params = s.params ∧ t.agenda = s.agenda ∧ t.turn = s.turn ∧ t.hostReads = s.hostReads

end Sys2Proof.Machine
end

