-- ==== Sys2Proof/Certificates/Slice0/Obligations.lean ====
section
/-! DEFINITION. The statements for the provers, from the numbered rules of spec/. -/

open Sys2Proof Sys2Proof.Machine

/-! ### The CTRL word (30_encoding) -/

/-- R70: the operation map, all eight OP values with RSV = 00000, in words written out; every other byte
is illegal. -/
def Obligations.CtrlWordsDecodeAsTheMapSays : Prop :=
  decode [0b00000000#8] = .ok (.illegal 0x00, []) ∧
  decode [0b00000001#8] = .ok (.csumCompute, []) ∧
  decode [0b00000010#8] = .ok (.csumValidate, []) ∧
  decode [0b00000011#8] = .ok (.decode, []) ∧
  decode [0b00000100#8] = .ok (.encode, []) ∧
  decode [0b00000101#8] = .ok (.encodeEmpty, []) ∧
  decode [0b00000110#8] = .ok (.illegal 0x06, []) ∧
  decode [0b00000111#8] = .ok (.illegal 0x07, []) ∧
  ∀ v : Byte, ¬ (1 ≤ v.toNat ∧ v.toNat ≤ 5) → decode [v] = .ok (.illegal v, [])

/-- R71: a CTRL byte is illegal exactly when it is 0x00, 0x06, 0x07 or has a bit of v[7:3] set; one
written with BUSY = 0 gives ILLEGAL_OP, and with BUSY = 1 it is dropped. -/
def Obligations.IllegalCtrlBytesAreTheRest : Prop :=
  ∀ v : Byte,
    (decodeCtrl v = .illegal v ↔ v = 0x00 ∨ v = 0x06 ∨ v = 0x07 ∨ 8 ≤ v.toNat) ∧
    (decodeCtrl v = .illegal v ∨ (1 ≤ v.toNat ∧ v.toNat ≤ 5)) ∧
    (decodeCtrl v = .illegal v → ∀ s : State, s.fault = none →
      act (.hostWrite 0x000 v) s =
        .next (if s.status.busy then { s with status := { s.status with reqDropped := true } }
          else { s with status := ⟨false, false, false, false, .illegalOp⟩ }))

/-- R69, R70, R71: every well-formed instruction is read back from its word, whatever follows it, and
every CTRL byte is the word of the instruction it stands for. -/
def Obligations.CtrlEncodeAndDecodeAgree : Prop :=
  (∀ (i : Instr) (rest : List Byte), i.wf = true → decode (encode i ++ rest) = .ok (i, rest)) ∧
  (∀ v : Byte, (decodeCtrl v).wf = true ∧ encode (decodeCtrl v) = [v])

/-! ### The step -/

/-- The host's scheduled write of a byte to CTRL runs the well-formed instruction the byte decodes to,
and so does the word that withFetchWord places. The agenda is the model's own (log entries 3, 7). -/
def Obligations.StepRunsTheDecodedCtrlWord : Prop :=
  (∀ (s : State) (v : Byte) (rest : List Action), s.fault = none →
    s.agenda = .hostWrite 0x000 v :: rest →
      (decodeCtrl v).wf = true ∧ step s = exec (decodeCtrl v) { s with agenda := rest }) ∧
  (∀ (s : State) (w : Nat), s.fault = none →
    step (s.withFetchWord 8 w) = exec (decodeCtrl (BitVec.ofNat 8 w)) s)

/-- A step is one agent's step: the agenda's head, else the free draw at `turn`, which can be any
action (the model's choice, log entries 3 and 4). -/
def Obligations.StepIsTheChosenAgentsStep : Prop :=
  ∀ s : State, s.fault = none →
    (∀ (a : Action) (rest : List Action), s.agenda = a :: rest →
      step s = act a { s with agenda := rest }) ∧
    (s.agenda = [] → step s = act (Config.freeAction s.turn) { s with turn := s.turn + 1 })

/-- R16, R39: a faulted state has no further step, keeps its fault, reset included, and no run starts
in one. That such a step answers the fault is log entry 1. -/
def Obligations.FaultedStateHasNoStep : Prop :=
  (∀ (s : State) (f : Fault), s.fault = some f →
    step s = .fault f ∧ (∀ i : Instr, exec i s = .fault f) ∧
    (∀ a : SinkAnswer, engineTurn a s = s) ∧ (resetFce s).fault = some f) ∧
  State.reset.fault = none

/-- In a state with no fault, BUSY or not, every action answers a next state: a host access (R80), an
arrival (R51) and reset (R138). That an engine turn does so too where the engine has no enabled step (phase
IDLE, or a hold, R15, R80) is the model's choice (log entry 3), and so is that step always has an action to
take (log entries 3 and 4). -/
def Obligations.EveryActionIsAnswered : Prop :=
  ∀ s : State, s.fault = none →
    (∀ a : Action, ∃ t, act a s = .next t) ∧ (∃ t, step s = .next t)

/-- Turns of the engine that the agenda schedules are the run of the engine's steps, while none of them
faults (20_memory R56; the agenda is log entry 3). -/
def Obligations.ScheduledTurnsRunTheEngine : Prop :=
  ∀ (answers : List SinkAnswer) (s : State) (rest : List Action),
    (engineRun answers { s with agenda := rest }).fault = none →
    Host.Core.run Sys2Proof.core answers.length
        { s with agenda := answers.map Action.engine ++ rest } =
      .next (engineRun answers { s with agenda := rest })

/-! ### CTRL writes (40_control) -/

/-- R77: with BUSY = 0 each of the five operations starts; nothing else changes. -/
def Obligations.AcceptStartsTheOperation : Prop :=
  ∀ s : State, s.fault = none → s.status.busy = false →
    exec .csumCompute s =
      .next { s with status := ⟨true, false, false, false, .none⟩, op := .csumCompute, phase := .cs } ∧
    exec .csumValidate s =
      .next { s with status := ⟨true, false, false, false, .none⟩, op := .csumValidate, phase := .cs } ∧
    exec .decode s =
      .next { s with status := ⟨true, false, false, false, .none⟩, op := .decode, phase := .rxHunt } ∧
    exec .encode s =
      .next { s with status := ⟨true, false, false, false, .none⟩, op := .encode, phase := .txStart } ∧
    exec .encodeEmpty s =
      .next { s with status := ⟨true, false, false, false, .none⟩, op := .encodeEmpty,
                     phase := .txStart } ∧
    Status.toByte ⟨true, false, false, false, .none⟩ = 0x01

/-- R76: with BUSY = 0 an illegal byte gives STATUS = 0x70 and changes nothing else. -/
def Obligations.IllegalWriteReportsIllegalOp : Prop :=
  ∀ (s : State) (v : Byte), s.fault = none → s.status.busy = false →
    exec (.illegal v) s = .next { s with status := ⟨false, false, false, false, .illegalOp⟩ } ∧
    Status.toByte ⟨false, false, false, false, .illegalOp⟩ = 0x70

/-- R75: with BUSY = 1 a write to CTRL, whatever its byte, or to an operand sets REQ_DROPPED and changes
nothing else; a write to any other address does not even that. -/
def Obligations.WritesWhileBusyAreDropped : Prop :=
  ∀ (s : State) (v : Byte), s.fault = none → s.status.busy = true →
    (∀ i : Instr, exec i s = .next { s with status := { s.status with reqDropped := true } }) ∧
    (∀ a : Addr, a = 0x000 ∨ isOperandAddr a = true →
      act (.hostWrite a v) s = .next { s with status := { s.status with reqDropped := true } }) ∧
    (∀ a : Addr, a ≠ 0x000 → isOperandAddr a = false → act (.hostWrite a v) s = .next s)

/-- R78, R46: an engine turn leaves STATUS alone, or ends the operation with REQ_DROPPED kept. -/
def Obligations.StatusChangesOnlyAtCompletion : Prop :=
  ∀ (a : SinkAnswer) (s : State),
    (engineTurn a s).status = s.status ∨
    ((engineTurn a s).status.busy = false ∧ (engineTurn a s).op = .none ∧
      (engineTurn a s).phase = .idle ∧
      (engineTurn a s).status.reqDropped = s.status.reqDropped)

/-- R25: the byte the host reads at STATUS, field by field, and the eight RESULT codes. -/
def Obligations.StatusByteLayout : Prop :=
  (∀ st : Status, st.toByte.getLsbD 0 = st.busy ∧ st.toByte.getLsbD 1 = st.frameValid ∧
    st.toByte.getLsbD 2 = st.csumMatch ∧ st.toByte.getLsbD 3 = st.reqDropped ∧
    st.toByte.toNat / 16 = st.result.code.toNat) ∧
  [Result.none, .ok, .noData, .checksumMismatch, .overflow, .tooLarge, .sinkReject, .illegalOp].map
    (fun r => r.code.toNat) = [0, 1, 2, 3, 4, 5, 6, 7]

/-! ### Host accesses (20_memory) -/

/-- R42: what the host's read of every address gives, and where it faults. That the byte goes into
hostReads is the model's choice (log entry 6). -/
def Obligations.MemReadFollowsTheMap : Prop :=
  ∀ s : State, s.fault = none →
    ReadReturns 0x000 s 0x00 ∧ ReadReturns 0x001 s s.status.toByte ∧
    ReadsStorage 0x002 s .rxVer s.rxVer ∧ ReadsStorage 0x003 s .rxCmd s.rxCmd ∧
    ReadsStorage 0x004 s .rxLenHi s.rxLenHi ∧ ReadsStorage 0x005 s .rxLenLo s.rxLenLo ∧
    ReadsStorage 0x006 s .rxCsum s.rxCsum ∧ ReadsStorage 0x007 s .calcCsum s.calcCsum ∧
    ReadReturns 0x008 s s.txVer ∧ ReadReturns 0x009 s s.txCmd ∧
    ReadReturns 0x00A s s.txLenHi ∧ ReadReturns 0x00B s s.txLenLo ∧
    ReadReturns 0x00C s s.csumExpect ∧
    (∀ i : BufIndex, ReadsStorage (BitVec.ofNat 12 (0x400 + i.toNat)) s (.rxBuf i)
      (Memory.read s.mem (0x400 + i.toNat))) ∧
    (∀ i : BufIndex, ReadsStorage (BitVec.ofNat 12 (0x800 + i.toNat)) s (.txBuf i)
      (Memory.read s.mem (0x800 + i.toNat))) ∧
    (∀ a : Addr, isReservedAddr a = true → ReadReturns a s 0x00)

/-- R43: what the host's write to every address does. -/
def Obligations.MemWriteFollowsTheMap : Prop :=
  ∀ (s : State) (v : Byte), s.fault = none →
    act (.hostWrite 0x000 v) s = exec (decodeCtrl v) s ∧
    (s.status.busy = true → ∀ a : Addr, isOperandAddr a = true →
      act (.hostWrite a v) s = .next { s with status := { s.status with reqDropped := true } }) ∧
    (s.status.busy = false →
      act (.hostWrite 0x008 v) s = .next { s with txVer := v } ∧
      act (.hostWrite 0x009 v) s = .next { s with txCmd := v } ∧
      act (.hostWrite 0x00A v) s = .next { s with txLenHi := v } ∧
      act (.hostWrite 0x00B v) s = .next { s with txLenLo := v } ∧
      act (.hostWrite 0x00C v) s = .next { s with csumExpect := v } ∧
      (∀ i : BufIndex, act (.hostWrite (BitVec.ofNat 12 (0x800 + i.toNat)) v) s =
        .next { s with mem := Memory.write s.mem (0x800 + i.toNat) v })) ∧
    (∀ a : Addr, a ≠ 0x000 → isOperandAddr a = false → act (.hostWrite a v) s = .next s)

/-- R44: a reserved address reads 0x00 and ignores writes, with no fault and no drop. hostReads is the
model's (log entry 6). -/
def Obligations.ReservedAddressesReadZeroAndIgnoreWrites : Prop :=
  ∀ (s : State) (a : Addr) (v : Byte), s.fault = none → isReservedAddr a = true →
    ReadReturns a s 0x00 ∧ act (.hostWrite a v) s = .next s

/-- R43, R56: with BUSY = 0, a byte written to a writable address is what the next read of it returns,
and every other address reads as before. hostReads is the model's (log entry 6). -/
def Obligations.HostReadsTheByteItWrote : Prop :=
  ∀ (s : State) (a : Addr) (v : Byte), s.fault = none → s.status.busy = false →
    isOperandAddr a = true →
    ∃ t, act (.hostWrite a v) s = .next t ∧ ReadReturns a t v ∧
      (∀ b : Addr, b ≠ a → memRead b t = memRead b s) ∧
      t.phase = s.phase ∧ t.op = s.op ∧ t.rxq = s.rxq ∧ t.txlog = s.txlog

/-! ### The streams and reset -/

/-- R51: an arriving byte is appended, or lost when RXQ holds RX_SOURCE_CAPACITY bytes; it can arrive in
every phase, and reset leaves RXQ. -/
def Obligations.ArrivalsAppendOrAreLost : Prop :=
  ∀ (s : State) (b : Byte),
    (s.params.rxSourceCapacity = none →
      act (.arrive b) s = .next { s with rxq := s.rxq ++ [b] }) ∧
    (∀ n, s.params.rxSourceCapacity = some n → s.rxq.length < n →
      act (.arrive b) s = .next { s with rxq := s.rxq ++ [b] }) ∧
    (∀ n, s.params.rxSourceCapacity = some n → n ≤ s.rxq.length →
      act (.arrive b) s = .next s) ∧
    (resetFce s).rxq = s.rxq ∧ (s.avail = true ↔ s.rxq ≠ [])

/-- R52: an engine turn takes at most the head of RXQ, and no other agent's step takes a byte. -/
def Obligations.OnlyTheEngineTakesBytesFromTheHead : Prop :=
  ∀ (a : Action) (s t : State), act a s = .next t →
    (isEngineAction a = true → t.rxq = s.rxq ∨ ∃ b, s.rxq = b :: t.rxq) ∧
    (isEngineAction a = false → t.rxq = s.rxq ∨ ∃ b, a = .arrive b ∧ t.rxq = s.rxq ++ [b])

/-- R55: a step appends at most one event to TXLOG, the engine's alone does; nothing reads TXLOG, so
with another log the step is the same; reset leaves it. -/
def Obligations.TransmitLogIsAppendOnlyAndUnread : Prop :=
  ∀ (a : Action) (s : State), s.fault = none →
    ∃ (t : State) (e : List TxEvent), e.length ≤ 1 ∧ (isEngineAction a = false → e = []) ∧
      ∀ l : List TxEvent, act a { s with txlog := l } = .next { t with txlog := l ++ e }

/-- R138: reset gives every piece of FCE state its reset value, in any phase, and leaves RXQ, TXLOG and
the fault mark. -/
def Obligations.ResetSetsEveryPiece : Prop :=
  ∀ s : State, act .reset s = .next
    { s with
      status := ⟨false, false, false, false, .none⟩
      rxVer := none
      rxCmd := none
      rxLenHi := none
      rxLenLo := none
      rxCsum := none
      calcCsum := none
      txVer := 0x00
      txCmd := 0x00
      txLenHi := 0x00
      txLenLo := 0x00
      csumExpect := 0x00
      mem := []
      phase := .idle
      op := .none
      acc := 0x00
      idx := 0
      len := 0
      pend := ⟨.none, false, false⟩ } ∧
    (∀ a : Nat, Memory.read ([] : Memory) a = none) ∧
    Status.toByte ⟨false, false, false, false, .none⟩ = 0x00

/-- R139: a run starts in the reset state with no fault, TXLOG empty and RXQ any bytes, idle until a
CTRL write. The launch state's other fields are the model's (log entry 5), and so is that an idle engine's
turn is a step that changes nothing (log entry 3). -/
def Obligations.RunsStartInTheResetState : Prop :=
  ∀ (p : Params) (q : List Byte) (ag : List Action),
    resetFce (State.launch p q ag) = State.launch p q ag ∧
    (State.launch p q ag).fault = none ∧ (State.launch p q ag).txlog = [] ∧
    (State.launch p q ag).rxq = q ∧ (State.launch p q ag).phase = .idle ∧
    ∀ a : SinkAnswer, engineTurn a (State.launch p q ag) = State.launch p q ag

/-! ### The checksum (41_checksum) -/

/-- R82: the checksum is the sum of the seed and the bytes as unsigned integers, modulo 256. -/
def Obligations.ChecksumIsTheSumModulo256 : Prop :=
  ∀ (p : Params) (ver cmd : Byte) (L : U16) (P : List Byte),
    (checksum p ver cmd L P).toNat =
      ((if p.csumIncludesSync then 0xFF else 0x00) + ver.toNat + cmd.toNat + L.toNat / 256
        + L.toNat % 256 + (P.map BitVec.toNat).sum) % 256

/-- R84: order independence; single-byte sensitivity, in the header and in the payload; a change of two
payload bytes that cancels; appending a zero byte; the seed of the sync bytes. -/
def Obligations.ChecksumLaws : Prop :=
  ∀ (p : Params) (ver cmd : Byte) (L : U16) (P : List Byte),
    (∀ (ver' cmd' : Byte) (L' : U16) (P' : List Byte),
      ([ver, cmd, hiByte L, loByte L] ++ P).Perm ([ver', cmd', hiByte L', loByte L'] ++ P') →
      checksum p ver' cmd' L' P' = checksum p ver cmd L P) ∧
    (∀ b : Byte, (b ≠ ver → checksum p b cmd L P ≠ checksum p ver cmd L P) ∧
      (b ≠ cmd → checksum p ver b L P ≠ checksum p ver cmd L P) ∧
      (b ≠ hiByte L → checksum p ver cmd (u16 b (loByte L)) P ≠ checksum p ver cmd L P) ∧
      (b ≠ loByte L → checksum p ver cmd (u16 (hiByte L) b) P ≠ checksum p ver cmd L P) ∧
      (∀ i, i < P.length → P[i]? ≠ some b →
        checksum p ver cmd L (P.set i b) ≠ checksum p ver cmd L P)) ∧
    (∀ x y : Byte, checksum p ver cmd L ((x + 1) :: (y - 1) :: P) = checksum p ver cmd L (x :: y :: P)) ∧
    (L.toNat < 1024 → checksum p ver cmd (L + 1) (P ++ [0x00]) ≠ checksum p ver cmd L P) ∧
    (L.toNat < 1024 → loByte L ≠ 0xFF →
      checksum p ver cmd (L + 1) (P ++ [0xFF]) = checksum p ver cmd L P) ∧
    checksum { p with csumIncludesSync := true } ver cmd L P =
      checksum { p with csumIncludesSync := false } ver cmd L P - 1

/-- R85: adding the bytes to the seed one by one gives the checksum. -/
def Obligations.AccumulatorGivesTheChecksum : Prop :=
  ∀ (p : Params) (ver cmd : Byte) (L : U16) (P : List Byte),
    ([ver, cmd, hiByte L, loByte L] ++ P).foldl (fun acc b => acc + b) (seed p) =
      checksum p ver cmd L P

/-- R86: CSUM_COMPUTE, from its CTRL write through its one engine step: TOO_LARGE, the checksum in
CALC_CSUM with OK, or the fault of the lowest unwritten byte. -/
def Obligations.CsumComputeRuns : Prop :=
  ∀ (s : State) (a : SinkAnswer), s.fault = none → s.status.busy = false →
    ∃ t, exec .csumCompute s = .next t ∧ t.phase = .cs ∧
      (1024 < s.txLen.toNat → engineTurn a t =
        { s with status := ⟨false, false, false, false, .tooLarge⟩, op := .none, phase := .idle }) ∧
      (∀ P, s.txLen.toNat ≤ 1024 → Memory.readRun s.mem 0x800 s.txLen.toNat = .ok P →
        engineTurn a t =
          { s with calcCsum := some (checksum s.params s.txVer s.txCmd s.txLen P)
                   status := ⟨false, false, false, false, .ok⟩, op := .none, phase := .idle }) ∧
      (∀ i : BufIndex, s.txLen.toNat ≤ 1024 → i.toNat < s.txLen.toNat →
        Memory.read s.mem (0x800 + i.toNat) = none →
        (∀ j : BufIndex, j.toNat < i.toNat → Memory.read s.mem (0x800 + j.toNat) ≠ none) →
        engineTurn a t = { t with fault := some (.unwritten (.txBuf i)) })

/-- R87: CSUM_VALIDATE, likewise, with CSUM_MATCH the comparison with CSUM_EXPECT. -/
def Obligations.CsumValidateRuns : Prop :=
  ∀ (s : State) (a : SinkAnswer), s.fault = none → s.status.busy = false →
    ∃ t, exec .csumValidate s = .next t ∧ t.phase = .cs ∧
      (1024 < s.txLen.toNat → engineTurn a t =
        { s with status := ⟨false, false, false, false, .tooLarge⟩, op := .none, phase := .idle }) ∧
      (∀ P, s.txLen.toNat ≤ 1024 → Memory.readRun s.mem 0x800 s.txLen.toNat = .ok P →
        ∃ m : Bool,
          (m = true ↔ checksum s.params s.txVer s.txCmd s.txLen P = s.csumExpect) ∧
          engineTurn a t =
            { s with calcCsum := some (checksum s.params s.txVer s.txCmd s.txLen P)
                     status := ⟨false, false, m, false, .ok⟩, op := .none, phase := .idle }) ∧
      (∀ i : BufIndex, s.txLen.toNat ≤ 1024 → i.toNat < s.txLen.toNat →
        Memory.read s.mem (0x800 + i.toNat) = none →
        (∀ j : BufIndex, j.toNat < i.toNat → Memory.read s.mem (0x800 + j.toNat) ≠ none) →
        engineTurn a t = { t with fault := some (.unwritten (.txBuf i)) })

/-- R109: the wire bytes of a frame, position by position; there are 7 + L of them (R61). -/
def Obligations.FrameBytesFollowTheLayout : Prop :=
  ∀ (p : Params) (f : Frame), f.wf = true →
    (frameBytes p f).length = 7 + f.payload.length ∧
    (frameBytes p f)[0]? = some 0x55 ∧ (frameBytes p f)[1]? = some 0xAA ∧
    (frameBytes p f)[2]? = some f.version ∧ (frameBytes p f)[3]? = some f.command ∧
    ((frameBytes p f)[4]?.map BitVec.toNat) = some (f.payload.length / 256) ∧
    ((frameBytes p f)[5]?.map BitVec.toNat) = some (f.payload.length % 256) ∧
    (∀ i, i < f.payload.length → (frameBytes p f)[6 + i]? = f.payload[i]?) ∧
    (frameBytes p f)[6 + f.payload.length]? = some (frameChecksum p f) ∧
    (∀ k, k ≤ 6 + f.payload.length → (frameBytes p f)[k]? = some (frameByte p f k))

/-! ### DECODE's steps (42_frame_decode) -/

/-- R89, R90: the search for 55 AA, overlapping, and NO_DATA when RXQ is empty before it is found. -/
def Obligations.SearchStepsFindTheMarker : Prop :=
  ∀ (a : SinkAnswer) (s : State), s.fault = none →
    (s.phase = .rxHunt ∨ s.phase = .rxSync1 → s.rxq = [] → engineTurn a s =
      { s with status := ⟨false, false, false, s.status.reqDropped, .noData⟩, op := .none,
               phase := .idle }) ∧
    (∀ b r, s.phase = .rxHunt → s.rxq = b :: r → engineTurn a s =
      { s with rxq := r, phase := if b = 0x55 then .rxSync1 else .rxHunt }) ∧
    (∀ r, s.phase = .rxSync1 → s.rxq = 0xAA :: r → engineTurn a s =
      { s with rxq := r, phase := .rxVer
               acc := if s.params.csumIncludesSync then 0xFF else 0x00 }) ∧
    (∀ b r, s.phase = .rxSync1 → b ≠ 0xAA → s.rxq = b :: r → engineTurn a s =
      { s with rxq := r, phase := if b = 0x55 then .rxSync1 else .rxHunt })

/-- R92: once the marker is found the engine holds while RXQ is empty, with nothing changed however many
turns it is given, and an arriving byte lifts the hold. -/
def Obligations.ReceivePhasesHoldWithoutBytes : Prop :=
  ∀ (s : State), s.fault = none → s.rxq = [] →
    s.phase = .rxVer ∨ s.phase = .rxCmd ∨ s.phase = .rxLenH ∨ s.phase = .rxLenL ∨
      s.phase = .rxPay ∨ s.phase = .rxCsum →
    s.engineEnabled = false ∧ (∀ answers : List SinkAnswer, engineRun answers s = s) ∧
    (∀ b : Byte, ({ s with rxq := [b] } : State).engineEnabled = true) ∧
    (resetFce s).phase = .idle

/-- R93, R94, R95: the version, the command and the length's high byte, each stored and summed. -/
def Obligations.HeaderBytesAreStored : Prop :=
  ∀ (a : SinkAnswer) (s : State) (b : Byte) (r : List Byte), s.fault = none → s.rxq = b :: r →
    (s.phase = .rxVer → engineTurn a s =
      { s with rxq := r, rxVer := some b, acc := s.acc + b, phase := .rxCmd }) ∧
    (s.phase = .rxCmd → engineTurn a s =
      { s with rxq := r, rxCmd := some b, acc := s.acc + b, phase := .rxLenH }) ∧
    (s.phase = .rxLenH → engineTurn a s =
      { s with rxq := r, rxLenHi := some b, acc := s.acc + b, phase := .rxLenL })

/-- R96: the length's low byte and the overflow check on the 16-bit big-endian value. -/
def Obligations.LengthByteDecides : Prop :=
  ∀ (a : SinkAnswer) (s : State) (hi b : Byte) (r : List Byte), s.fault = none →
    s.phase = .rxLenL → s.rxLenHi = some hi → s.rxq = b :: r →
    (1024 < hi.toNat * 256 + b.toNat → engineTurn a s = terminal .overflow false false
      { s with rxq := r, rxLenLo := some b, acc := s.acc + b, len := u16 hi b }) ∧
    (hi.toNat * 256 + b.toNat = 0 → engineTurn a s =
      { s with rxq := r, rxLenLo := some b, acc := s.acc + b, len := u16 hi b, phase := .rxCsum }) ∧
    (0 < hi.toNat * 256 + b.toNat → hi.toNat * 256 + b.toNat ≤ 1024 → engineTurn a s =
      { s with rxq := r, rxLenLo := some b, acc := s.acc + b, len := u16 hi b, idx := 0,
               phase := .rxPay }) ∧
    (u16 hi b).toNat = hi.toNat * 256 + b.toNat

/-- R97: a payload byte goes to RX_BUF[idx] and nowhere else, and the last one ends the payload. That idx
stays as it is at the last byte is the model's choice (log entry 9: R97 is followed, where R88's table
counts idx on). -/
def Obligations.PayloadByteIsStored : Prop :=
  ∀ (a : SinkAnswer) (s : State) (b : Byte) (r : List Byte), s.fault = none → s.phase = .rxPay →
    s.idx.toNat < s.len.toNat → s.len.toNat ≤ 1024 → s.rxq = b :: r →
    ∃ m : Memory,
      Memory.read m (0x400 + s.idx.toNat) = some b ∧
      (∀ x, x ≠ 0x400 + s.idx.toNat → Memory.read m x = Memory.read s.mem x) ∧
      (s.idx.toNat + 1 = s.len.toNat → engineTurn a s =
        { s with rxq := r, mem := m, acc := s.acc + b, phase := .rxCsum }) ∧
      (s.idx.toNat + 1 ≠ s.len.toNat → engineTurn a s =
        { s with rxq := r, mem := m, acc := s.acc + b, idx := s.idx + 1 })

/-- R98: the checksum byte, stored beside the computed sum, decides between OK and CHECKSUM_MISMATCH;
under the receive invariant that sum is the checksum of the bytes held. -/
def Obligations.ChecksumByteDecides : Prop :=
  ∀ (a : SinkAnswer) (s : State) (b : Byte) (r : List Byte), s.fault = none → s.phase = .rxCsum →
    s.rxq = b :: r →
    (b = s.acc → engineTurn a s =
      terminal .ok true true { s with rxq := r, rxCsum := some b, calcCsum := some s.acc }) ∧
    (b ≠ s.acc → engineTurn a s =
      terminal .checksumMismatch false false
        { s with rxq := r, rxCsum := some b, calcCsum := some s.acc }) ∧
    (ReceiveInv s → ∃ ver cmd P, s.rxVer = some ver ∧ s.rxCmd = some cmd ∧
      Memory.readRun s.mem 0x400 s.len.toNat = .ok P ∧
      s.acc = checksum s.params ver cmd s.len P)

/-- R100, R101: a terminal outcome publishes at once under RETAIN; under DISCARD it is held while the
drain drops a byte a step, and published by the step that finds RXQ empty. -/
def Obligations.TerminalOutcomesDrainOrPublish : Prop :=
  (∀ (s : State) (c : Result) (v m : Bool),
    (s.params.remainderPolicy = .retain → terminal c v m s =
      { s with status := ⟨false, v, m, s.status.reqDropped, c⟩, op := .none, phase := .idle }) ∧
    (s.params.remainderPolicy = .discard → terminal c v m s =
      { s with pend := ⟨c, v, m⟩, phase := .rxDrain })) ∧
  (∀ (a : SinkAnswer) (s : State), s.fault = none → s.phase = .rxDrain →
    (s.rxq = [] → engineTurn a s =
      { s with status := ⟨false, s.pend.valid, s.pend.csumMatch, s.status.reqDropped, s.pend.code⟩,
               op := .none, phase := .idle }) ∧
    (∀ b r, s.rxq = b :: r → engineTurn a s = { s with rxq := r }))

/-! ### DECODE from its CTRL write to its end -/

/-- R104: a valid frame after garbage that holds no 55 AA is decoded, from the CTRL write through as many
turns as R153 counts; under DISCARD the rest is drained, under RETAIN it stays. -/
def Obligations.DecodeFindsTheFrameAfterGarbage : Prop :=
  ∀ (s : State) (G T : List Byte) (f : Frame) (answers : List SinkAnswer),
    s.fault = none → s.status.busy = false → f.wf = true → ¬ [0x55, 0xAA] <:+: G →
    s.rxq = G ++ frameBytes s.params f ++ T →
    answers.length = G.length + 7 + f.payload.length
      + (match s.params.remainderPolicy with | .discard => T.length + 1 | .retain => 0) →
    ∃ t, exec .decode s = .next t ∧
      (engineRun answers t).status = ⟨false, true, true, false, .ok⟩ ∧
      (engineRun answers t).phase = .idle ∧ (engineRun answers t).fault = none ∧
      RxHolds (engineRun answers t) f (frameChecksum s.params f) ∧
      (engineRun answers t).calcCsum = some (frameChecksum s.params f) ∧
      (engineRun answers t).rxq =
        (match s.params.remainderPolicy with | .discard => [] | .retain => T) ∧
      (engineRun answers t).txlog = s.txlog ∧ SameOperands s (engineRun answers t) ∧
      (∀ i : BufIndex, f.payload.length ≤ i.toNat →
        Memory.read (engineRun answers t).mem (rxBufAddr i) = Memory.read s.mem (rxBufAddr i))

/-- R119: the same bytes with a wrong checksum byte end CHECKSUM_MISMATCH, the received frame, the
received byte and the computed sum recorded. -/
def Obligations.DecodeReportsChecksumMismatch : Prop :=
  ∀ (s : State) (G T : List Byte) (f : Frame) (k : Byte) (answers : List SinkAnswer),
    s.fault = none → s.status.busy = false → f.wf = true → ¬ [0x55, 0xAA] <:+: G →
    k ≠ frameChecksum s.params f → s.rxq = G ++ wireBytes f k ++ T →
    answers.length = G.length + 7 + f.payload.length
      + (match s.params.remainderPolicy with | .discard => T.length + 1 | .retain => 0) →
    ∃ t, exec .decode s = .next t ∧
      (engineRun answers t).status = ⟨false, false, false, false, .checksumMismatch⟩ ∧
      (engineRun answers t).phase = .idle ∧ (engineRun answers t).fault = none ∧
      RxHolds (engineRun answers t) f k ∧
      (engineRun answers t).calcCsum = some (frameChecksum s.params f)

/-- R120, R105: a declared length over 1024 ends OVERFLOW at the length's low byte, with the header
recorded, RX_BUF, RX_CSUM and CALC_CSUM unchanged, and RXQ just after that byte (RETAIN) or drained
(DISCARD). -/
def Obligations.DecodeReportsOverflow : Prop :=
  ∀ (s : State) (G T : List Byte) (ver cmd hi lo : Byte) (answers : List SinkAnswer),
    s.fault = none → s.status.busy = false → ¬ [0x55, 0xAA] <:+: G →
    1024 < hi.toNat * 256 + lo.toNat →
    s.rxq = G ++ [0x55, 0xAA, ver, cmd, hi, lo] ++ T →
    answers.length = G.length + 6
      + (match s.params.remainderPolicy with | .discard => T.length + 1 | .retain => 0) →
    ∃ t, exec .decode s = .next t ∧
      (engineRun answers t).status = ⟨false, false, false, false, .overflow⟩ ∧
      (engineRun answers t).phase = .idle ∧ (engineRun answers t).fault = none ∧
      (engineRun answers t).rxVer = some ver ∧ (engineRun answers t).rxCmd = some cmd ∧
      (engineRun answers t).rxLenHi = some hi ∧ (engineRun answers t).rxLenLo = some lo ∧
      (engineRun answers t).mem = s.mem ∧ (engineRun answers t).rxCsum = s.rxCsum ∧
      (engineRun answers t).calcCsum = s.calcCsum ∧
      (engineRun answers t).rxq =
        (match s.params.remainderPolicy with | .discard => [] | .retain => T)

/-- R118: with no sync marker in RXQ, DECODE takes every byte and ends NO_DATA, with nothing recorded
but STATUS. -/
def Obligations.DecodeReportsNoData : Prop :=
  ∀ (s : State) (answers : List SinkAnswer),
    s.fault = none → s.status.busy = false → ¬ [0x55, 0xAA] <:+: s.rxq →
    answers.length = s.rxq.length + 1 →
    ∃ t, exec .decode s = .next t ∧
      engineRun answers t =
        { s with status := ⟨false, false, false, false, .noData⟩, op := .none, phase := .idle,
                 rxq := [] }

/-! ### ENCODE and ENCODE_EMPTY (43_frame_encode) -/

/-- R112, R114: the length check that starts a transmission, and the flush that ends it. -/
def Obligations.TransmissionStartsAndFlushes : Prop :=
  ∀ (a : SinkAnswer) (s : State), s.fault = none →
    (s.phase = .txStart → s.op ≠ .encodeEmpty → 1024 < s.txLen.toNat → engineTurn a s =
      { s with status := ⟨false, false, false, s.status.reqDropped, .tooLarge⟩, op := .none,
               phase := .idle }) ∧
    (s.phase = .txStart → s.op ≠ .encodeEmpty → s.txLen.toNat ≤ 1024 → engineTurn a s =
      { s with len := s.txLen, idx := 0, phase := .txEmit,
               acc := if s.params.csumIncludesSync then 0xFF else 0x00 }) ∧
    (s.phase = .txStart → s.op = .encodeEmpty → engineTurn a s =
      { s with len := 0, idx := 0, phase := .txEmit,
               acc := if s.params.csumIncludesSync then 0xFF else 0x00 }) ∧
    (s.phase = .txFlush → engineTurn a s =
      { s with txlog := s.txlog ++ [.flush], op := .none, phase := .idle,
               status := ⟨false, false, false, s.status.reqDropped, .ok⟩ })

/-- R113, R53: the byte offered at each position, the fault of an unwritten one, and what each of the
sink's three answers does. -/
def Obligations.SinkAnswersDecideTheOffer : Prop :=
  ∀ (s : State), s.fault = none → s.phase = .txEmit → s.len.toNat ≤ 1024 →
    s.idx.toNat ≤ 6 + s.len.toNat →
    (∀ (a : SinkAnswer) (i : BufIndex), s.idx.toNat = 6 + i.toNat → i.toNat < s.len.toNat →
      Memory.read s.mem (0x800 + i.toNat) = none →
      engineTurn a s = { s with fault := some (.unwritten (.txBuf i)) }) ∧
    (∀ b : Byte,
      (s.idx.toNat = 0 → b = 0x55) → (s.idx.toNat = 1 → b = 0xAA) →
      (s.idx.toNat = 2 → b = s.txVer) → (s.idx.toNat = 3 → b = s.txCmd) →
      (s.idx.toNat = 4 → b.toNat = s.len.toNat / 256) →
      (s.idx.toNat = 5 → b.toNat = s.len.toNat % 256) →
      (6 ≤ s.idx.toNat → s.idx.toNat ≤ 5 + s.len.toNat →
        Memory.read s.mem (0x800 + (s.idx.toNat - 6)) = some b) →
      (s.idx.toNat = 6 + s.len.toNat → b = s.acc) →
      engineTurn .wait s = s ∧
      engineTurn .reject s =
        { s with status := ⟨false, false, false, s.status.reqDropped, .sinkReject⟩, op := .none,
                 phase := .idle } ∧
      (s.idx.toNat = 6 + s.len.toNat → engineTurn .accept s =
        { s with txlog := s.txlog ++ [.byte b], calcCsum := some b, phase := .txFlush }) ∧
      (s.idx.toNat < 6 + s.len.toNat → engineTurn .accept s =
        { s with txlog := s.txlog ++ [.byte b], idx := s.idx + 1,
                 acc := if 2 ≤ s.idx.toNat then s.acc + b else s.acc }))

/-- R110: ENCODE under a sink that accepts every byte, from the CTRL write through R153's count of turns:
the frame's bytes and one Flush go out, CALC_CSUM holds the checksum, and the operands, RX registers and
RXQ stay. -/
def Obligations.EncodeSendsTheFrame : Prop :=
  ∀ (s : State) (f : Frame), s.fault = none → s.status.busy = false → TxHolds s f →
    ∃ t u, exec .encode s = .next t ∧
      engineRun (List.replicate (9 + f.payload.length) .accept) t = u ∧
      u.status = ⟨false, false, false, false, .ok⟩ ∧ u.phase = .idle ∧ u.op = .none ∧
      u.fault = none ∧
      u.txlog = s.txlog ++ (frameBytes s.params f).map TxEvent.byte ++ [.flush] ∧
      u.calcCsum = some (frameChecksum s.params f) ∧
      u.mem = s.mem ∧ u.rxq = s.rxq ∧ SameOperands s u ∧ SameRx s u ∧ SameRest s u

/-- R111: ENCODE_EMPTY sends the frame with no payload, whatever TX_LEN and TX_BUF hold, and leaves
them. -/
def Obligations.EncodeEmptySendsTheEmptyFrame : Prop :=
  ∀ (s : State), s.fault = none → s.status.busy = false →
    ∃ t u, exec .encodeEmpty s = .next t ∧ engineRun (List.replicate 9 .accept) t = u ∧
      u.status = ⟨false, false, false, false, .ok⟩ ∧ u.phase = .idle ∧ u.op = .none ∧
      u.fault = none ∧
      u.txlog = s.txlog ++ (frameBytes s.params ⟨s.txVer, s.txCmd, []⟩).map TxEvent.byte
        ++ [.flush] ∧
      u.calcCsum = some (frameChecksum s.params ⟨s.txVer, s.txCmd, []⟩) ∧
      u.mem = s.mem ∧ u.rxq = s.rxq ∧ SameOperands s u ∧ SameRx s u ∧ SameRest s u

/-- R122, R115: a reject at position k ends ENCODE or ENCODE_EMPTY with SINK_REJECT; the accepted bytes
stay, no Flush follows, and nothing else is recorded. -/
def Obligations.SinkRejectCutsTheFrame : Prop :=
  ∀ (s : State) (i : Instr) (f : Frame) (k : Nat), s.fault = none → s.status.busy = false →
    (i = .encode ∧ TxHolds s f) ∨ (i = .encodeEmpty ∧ f = ⟨s.txVer, s.txCmd, []⟩) →
    k ≤ 6 + f.payload.length →
    ∃ t u, exec i s = .next t ∧
      engineRun (List.replicate (k + 1) .accept ++ [.reject]) t = u ∧
      u.status = ⟨false, false, false, false, .sinkReject⟩ ∧ u.phase = .idle ∧ u.op = .none ∧
      u.fault = none ∧
      u.txlog = s.txlog ++ ((frameBytes s.params f).take k).map TxEvent.byte ∧
      u.calcCsum = s.calcCsum ∧ u.mem = s.mem ∧ u.rxq = s.rxq ∧ SameOperands s u ∧ SameRx s u ∧
      SameRest s u

/-- R113, R127.4: ENCODE faults at its first unwritten payload byte, after the bytes before it. -/
def Obligations.EncodeFaultsAtItsFirstUnwrittenByte : Prop :=
  ∀ (s : State) (P : List Byte) (i : BufIndex), s.fault = none → s.status.busy = false →
    s.txLen.toNat ≤ 1024 → i.toNat < s.txLen.toNat →
    Memory.readRun s.mem 0x800 i.toNat = .ok P → Memory.read s.mem (0x800 + i.toNat) = none →
    ∃ t u, exec .encode s = .next t ∧
      engineRun (List.replicate (8 + i.toNat) .accept) t = u ∧
      u.fault = some (.unwritten (.txBuf i)) ∧ u.status = ⟨true, false, false, false, .none⟩ ∧
      u.txlog = s.txlog ++
        ([0x55, 0xAA, s.txVer, s.txCmd, hiByte s.txLen, loByte s.txLen] ++ P).map TxEvent.byte

/-- R121: TX_LEN > 1024 ends CSUM_COMPUTE, CSUM_VALIDATE and ENCODE at their first engine step, with
STATUS alone recorded. -/
def Obligations.TooLargeChangesOnlyStatus : Prop :=
  ∀ (s : State) (i : Instr) (a : SinkAnswer), s.fault = none → s.status.busy = false →
    1024 < s.txLen.toNat → i = .csumCompute ∨ i = .csumValidate ∨ i = .encode →
    ∃ t, exec i s = .next t ∧ engineTurn a t =
      { s with status := ⟨false, false, false, false, .tooLarge⟩, op := .none, phase := .idle }

/-- R107: what ENCODE sends of a frame, received whole by an FCE with the same CSUM_INCLUDES_SYNC, is
decoded to the same frame, under either REMAINDER_POLICY. -/
def Obligations.DecodeOfEncodeIsTheFrame : Prop :=
  ∀ (s r : State) (f : Frame), s.fault = none → s.status.busy = false → TxHolds s f →
    r.fault = none → r.status.busy = false →
    r.params.csumIncludesSync = s.params.csumIncludesSync →
    ∃ t u, exec .encode s = .next t ∧
      engineRun (List.replicate (9 + f.payload.length) .accept) t = u ∧
      ∃ sent, u.txlog = s.txlog ++ sent ∧
        (r.rxq = loggedBytes sent → ∀ answers : List SinkAnswer,
          answers.length = 8 + f.payload.length →
          ∃ t', exec .decode r = .next t' ∧
            (engineRun answers t').status = ⟨false, true, true, false, .ok⟩ ∧
            (engineRun answers t').rxq = [] ∧
            RxHolds (engineRun answers t') f (frameChecksum s.params f))

/-- R151: where sender and receiver differ in CSUM_INCLUDES_SYNC, the checksums differ by 0xFF and a
DECODE of the frame sent ends CHECKSUM_MISMATCH. -/
def Obligations.DifferentSyncSettingsMismatch : Prop :=
  ∀ (p : Params) (r : State) (f : Frame) (answers : List SinkAnswer), f.wf = true →
    r.fault = none → r.status.busy = false →
    r.params.csumIncludesSync ≠ p.csumIncludesSync → r.rxq = frameBytes p f →
    answers.length = 8 + f.payload.length →
    (r.params.csumIncludesSync = true →
      frameChecksum r.params f = frameChecksum p f + 0xFF) ∧
    (p.csumIncludesSync = true → frameChecksum p f = frameChecksum r.params f + 0xFF) ∧
    ∃ t, exec .decode r = .next t ∧
      (engineRun answers t).status = ⟨false, false, false, false, .checksumMismatch⟩ ∧
      (engineRun answers t).phase = .idle

/-! ### Frames: what an operation's turns leave -/

/-- R86, R87: a turn in phase CS touches neither stream, nor the buffers, nor the other registers. -/
def Obligations.ChecksumTurnsLeaveTheRest : Prop :=
  ∀ (a : SinkAnswer) (s : State), s.phase = .cs →
    (engineTurn a s).rxq = s.rxq ∧ (engineTurn a s).txlog = s.txlog ∧
    (engineTurn a s).mem = s.mem ∧ (engineTurn a s).acc = s.acc ∧ (engineTurn a s).idx = s.idx ∧
    (engineTurn a s).len = s.len ∧ (engineTurn a s).pend = s.pend ∧
    SameOperands s (engineTurn a s) ∧ SameRx s (engineTurn a s) ∧ SameRest s (engineTurn a s)

/-- R88: a turn in a receive phase leaves the operands, TX_BUF and TXLOG, and every byte of RX_BUF but
RX_BUF[idx] in RX_PAY. -/
def Obligations.ReceiveTurnsLeaveTheRest : Prop :=
  ∀ (a : SinkAnswer) (s : State), phaseFits .decode s.phase = true →
    (engineTurn a s).txlog = s.txlog ∧ SameOperands s (engineTurn a s) ∧
    SameRest s (engineTurn a s) ∧
    (∀ i : BufIndex, ¬ (s.phase = .rxPay ∧ i = s.idx.setWidth 10) →
      Memory.read (engineTurn a s).mem (rxBufAddr i) = Memory.read s.mem (rxBufAddr i))

/-- R112, R113, R114: a turn in a transmit phase leaves RXQ, every byte of memory, the operands, the RX
registers and the pending result. -/
def Obligations.TransmitTurnsLeaveTheRest : Prop :=
  ∀ (a : SinkAnswer) (s : State), phaseFits .encode s.phase = true →
    (engineTurn a s).rxq = s.rxq ∧ (engineTurn a s).mem = s.mem ∧
    (engineTurn a s).pend = s.pend ∧ SameOperands s (engineTurn a s) ∧
    SameRx s (engineTurn a s) ∧ SameRest s (engineTurn a s)

/-- R59, R75: while BUSY = 1 no step but reset changes an operand or TX_BUF. -/
def Obligations.OperandsHoldWhileBusy : Prop :=
  ∀ (s t : State), s.status.busy = true → s.nextAction ≠ .reset → step s = .next t →
    SameOperands s t

/-- 10_state R20: the parameters are configuration; no step changes them (log entry 2). -/
def Obligations.ParametersNeverChange : Prop :=
  ∀ s t : State, step s = .next t → t.params = s.params

/-! ### Invariants -/

/-- At the start of every run the invariants hold. -/
def Obligations.RunsStartWithTheInvariants : Prop :=
  ∀ (p : Params) (q : List Byte) (ag : List Action),
    ControlInv (State.launch p q ag) ∧ ReceiveInv (State.launch p q ag) ∧
    TransmitInv (State.launch p q ag)

/-- Every step keeps the memory's canonical form, from any state that has it. -/
def Obligations.StepKeepsTheMemoryCanonical : Prop :=
  ∀ s t : State, Memory.wf s.mem → step s = .next t → Memory.wf t.mem

/-- 40_control R80, 10_state R25, R33, R34, R36: BUSY is 1 exactly while an operation is in progress,
the flags agree with each other and the engine's counters stay in range, in every step. -/
def Obligations.StepKeepsTheControlInvariant : Prop :=
  ∀ s t : State, ControlInv s → step s = .next t → ControlInv t

/-- 10_state R25, 41_checksum R83, R85: FRAME_VALID = 1 means a valid frame in the RX registers, and the
receive accumulator is right; every step keeps this. -/
def Obligations.StepKeepsTheReceiveInvariant : Prop :=
  ∀ s t : State, ControlInv s → ReceiveInv s → step s = .next t → ReceiveInv t

/-- 41_checksum R85, 43_frame_encode R112, R113: the transmit accumulator and length are right; every
step keeps this. -/
def Obligations.StepKeepsTheTransmitInvariant : Prop :=
  ∀ s t : State, ControlInv s → TransmitInv s → step s = .next t → TransmitInv t

/-- R113: the byte offered at a position is that position of the frame the operands hold, the checksum
included. -/
def Obligations.OfferedByteIsTheFramesByte : Prop :=
  ∀ (s : State) (b : Byte) (f : Frame), s.phase = .txEmit → ControlInv s → TransmitInv s →
    f.version = s.txVer → f.command = s.txCmd → f.payload.length = s.len.toNat →
    Memory.readRun s.mem 0x800 s.len.toNat = .ok f.payload →
    s.offered = .ok b → (frameBytes s.params f)[s.idx.toNat]? = some b

/-- R126: from a state that meets the invariants, only a host read of storage that holds ⊥ faults, and an
engine turn of CSUM_COMPUTE, CSUM_VALIDATE or ENCODE that needs an unwritten TX_BUF byte below its
length. -/
def Obligations.OnlyUnwrittenStorageFaults : Prop :=
  ∀ (a : Action) (s t : State) (f : Fault), ControlInv s → TransmitInv s → s.fault = none →
    act a s = .next t → t.fault = some f →
    (∃ addr, a = .hostRead addr ∧ memRead addr s = .error f) ∨
    (∃ (ans : SinkAnswer) (i : BufIndex), a = .engine ans ∧ f = .unwritten (.txBuf i) ∧
      Memory.read s.mem (txBufAddr i) = none ∧ i.toNat < s.txLen.toNat ∧
      ((s.phase = .cs ∧ (s.op = .csumCompute ∨ s.op = .csumValidate)) ∨
        (s.phase = .txEmit ∧ s.op = .encode)))
end

