-- ==== Sys2Proof/Laws/State.lean ====
section
/-! SUPPORT. One lemma per field of State for each named update, true by rfl, so that no proof unfolds
a record update. -/

namespace Sys2Proof.Machine

open Sys2Proof

@[simp] theorem State.raise_status (f : Fault) (s : State) :
    (s.raise f).status = s.status := rfl

@[simp] theorem State.raise_rxVer (f : Fault) (s : State) :
    (s.raise f).rxVer = s.rxVer := rfl

@[simp] theorem State.raise_rxCmd (f : Fault) (s : State) :
    (s.raise f).rxCmd = s.rxCmd := rfl

@[simp] theorem State.raise_rxLenHi (f : Fault) (s : State) :
    (s.raise f).rxLenHi = s.rxLenHi := rfl

@[simp] theorem State.raise_rxLenLo (f : Fault) (s : State) :
    (s.raise f).rxLenLo = s.rxLenLo := rfl

@[simp] theorem State.raise_rxCsum (f : Fault) (s : State) :
    (s.raise f).rxCsum = s.rxCsum := rfl

@[simp] theorem State.raise_calcCsum (f : Fault) (s : State) :
    (s.raise f).calcCsum = s.calcCsum := rfl

@[simp] theorem State.raise_txVer (f : Fault) (s : State) :
    (s.raise f).txVer = s.txVer := rfl

@[simp] theorem State.raise_txCmd (f : Fault) (s : State) :
    (s.raise f).txCmd = s.txCmd := rfl

@[simp] theorem State.raise_txLenHi (f : Fault) (s : State) :
    (s.raise f).txLenHi = s.txLenHi := rfl

@[simp] theorem State.raise_txLenLo (f : Fault) (s : State) :
    (s.raise f).txLenLo = s.txLenLo := rfl

@[simp] theorem State.raise_csumExpect (f : Fault) (s : State) :
    (s.raise f).csumExpect = s.csumExpect := rfl

@[simp] theorem State.raise_mem (f : Fault) (s : State) :
    (s.raise f).mem = s.mem := rfl

@[simp] theorem State.raise_phase (f : Fault) (s : State) :
    (s.raise f).phase = s.phase := rfl

@[simp] theorem State.raise_op (f : Fault) (s : State) :
    (s.raise f).op = s.op := rfl

@[simp] theorem State.raise_acc (f : Fault) (s : State) :
    (s.raise f).acc = s.acc := rfl

@[simp] theorem State.raise_idx (f : Fault) (s : State) :
    (s.raise f).idx = s.idx := rfl

@[simp] theorem State.raise_len (f : Fault) (s : State) :
    (s.raise f).len = s.len := rfl

@[simp] theorem State.raise_pend (f : Fault) (s : State) :
    (s.raise f).pend = s.pend := rfl

@[simp] theorem State.raise_fault (f : Fault) (s : State) :
    (s.raise f).fault = some f := rfl

@[simp] theorem State.raise_rxq (f : Fault) (s : State) :
    (s.raise f).rxq = s.rxq := rfl

@[simp] theorem State.raise_txlog (f : Fault) (s : State) :
    (s.raise f).txlog = s.txlog := rfl

@[simp] theorem State.raise_params (f : Fault) (s : State) :
    (s.raise f).params = s.params := rfl

@[simp] theorem State.raise_agenda (f : Fault) (s : State) :
    (s.raise f).agenda = s.agenda := rfl

@[simp] theorem State.raise_turn (f : Fault) (s : State) :
    (s.raise f).turn = s.turn := rfl

@[simp] theorem State.raise_hostReads (f : Fault) (s : State) :
    (s.raise f).hostReads = s.hostReads := rfl

@[simp] theorem State.emit_status (e : TxEvent) (s : State) :
    (s.emit e).status = s.status := rfl

@[simp] theorem State.emit_rxVer (e : TxEvent) (s : State) :
    (s.emit e).rxVer = s.rxVer := rfl

@[simp] theorem State.emit_rxCmd (e : TxEvent) (s : State) :
    (s.emit e).rxCmd = s.rxCmd := rfl

@[simp] theorem State.emit_rxLenHi (e : TxEvent) (s : State) :
    (s.emit e).rxLenHi = s.rxLenHi := rfl

@[simp] theorem State.emit_rxLenLo (e : TxEvent) (s : State) :
    (s.emit e).rxLenLo = s.rxLenLo := rfl

@[simp] theorem State.emit_rxCsum (e : TxEvent) (s : State) :
    (s.emit e).rxCsum = s.rxCsum := rfl

@[simp] theorem State.emit_calcCsum (e : TxEvent) (s : State) :
    (s.emit e).calcCsum = s.calcCsum := rfl

@[simp] theorem State.emit_txVer (e : TxEvent) (s : State) :
    (s.emit e).txVer = s.txVer := rfl

@[simp] theorem State.emit_txCmd (e : TxEvent) (s : State) :
    (s.emit e).txCmd = s.txCmd := rfl

@[simp] theorem State.emit_txLenHi (e : TxEvent) (s : State) :
    (s.emit e).txLenHi = s.txLenHi := rfl

@[simp] theorem State.emit_txLenLo (e : TxEvent) (s : State) :
    (s.emit e).txLenLo = s.txLenLo := rfl

@[simp] theorem State.emit_csumExpect (e : TxEvent) (s : State) :
    (s.emit e).csumExpect = s.csumExpect := rfl

@[simp] theorem State.emit_mem (e : TxEvent) (s : State) :
    (s.emit e).mem = s.mem := rfl

@[simp] theorem State.emit_phase (e : TxEvent) (s : State) :
    (s.emit e).phase = s.phase := rfl

@[simp] theorem State.emit_op (e : TxEvent) (s : State) :
    (s.emit e).op = s.op := rfl

@[simp] theorem State.emit_acc (e : TxEvent) (s : State) :
    (s.emit e).acc = s.acc := rfl

@[simp] theorem State.emit_idx (e : TxEvent) (s : State) :
    (s.emit e).idx = s.idx := rfl

@[simp] theorem State.emit_len (e : TxEvent) (s : State) :
    (s.emit e).len = s.len := rfl

@[simp] theorem State.emit_pend (e : TxEvent) (s : State) :
    (s.emit e).pend = s.pend := rfl

@[simp] theorem State.emit_fault (e : TxEvent) (s : State) :
    (s.emit e).fault = s.fault := rfl

@[simp] theorem State.emit_rxq (e : TxEvent) (s : State) :
    (s.emit e).rxq = s.rxq := rfl

@[simp] theorem State.emit_txlog (e : TxEvent) (s : State) :
    (s.emit e).txlog = s.txlog ++ [e] := rfl

@[simp] theorem State.emit_params (e : TxEvent) (s : State) :
    (s.emit e).params = s.params := rfl

@[simp] theorem State.emit_agenda (e : TxEvent) (s : State) :
    (s.emit e).agenda = s.agenda := rfl

@[simp] theorem State.emit_turn (e : TxEvent) (s : State) :
    (s.emit e).turn = s.turn := rfl

@[simp] theorem State.emit_hostReads (e : TxEvent) (s : State) :
    (s.emit e).hostReads = s.hostReads := rfl

@[simp] theorem State.addAcc_status (b : Byte) (s : State) :
    (s.addAcc b).status = s.status := rfl

@[simp] theorem State.addAcc_rxVer (b : Byte) (s : State) :
    (s.addAcc b).rxVer = s.rxVer := rfl

@[simp] theorem State.addAcc_rxCmd (b : Byte) (s : State) :
    (s.addAcc b).rxCmd = s.rxCmd := rfl

@[simp] theorem State.addAcc_rxLenHi (b : Byte) (s : State) :
    (s.addAcc b).rxLenHi = s.rxLenHi := rfl

@[simp] theorem State.addAcc_rxLenLo (b : Byte) (s : State) :
    (s.addAcc b).rxLenLo = s.rxLenLo := rfl

@[simp] theorem State.addAcc_rxCsum (b : Byte) (s : State) :
    (s.addAcc b).rxCsum = s.rxCsum := rfl

@[simp] theorem State.addAcc_calcCsum (b : Byte) (s : State) :
    (s.addAcc b).calcCsum = s.calcCsum := rfl

@[simp] theorem State.addAcc_txVer (b : Byte) (s : State) :
    (s.addAcc b).txVer = s.txVer := rfl

@[simp] theorem State.addAcc_txCmd (b : Byte) (s : State) :
    (s.addAcc b).txCmd = s.txCmd := rfl

@[simp] theorem State.addAcc_txLenHi (b : Byte) (s : State) :
    (s.addAcc b).txLenHi = s.txLenHi := rfl

@[simp] theorem State.addAcc_txLenLo (b : Byte) (s : State) :
    (s.addAcc b).txLenLo = s.txLenLo := rfl

@[simp] theorem State.addAcc_csumExpect (b : Byte) (s : State) :
    (s.addAcc b).csumExpect = s.csumExpect := rfl

@[simp] theorem State.addAcc_mem (b : Byte) (s : State) :
    (s.addAcc b).mem = s.mem := rfl

@[simp] theorem State.addAcc_phase (b : Byte) (s : State) :
    (s.addAcc b).phase = s.phase := rfl

@[simp] theorem State.addAcc_op (b : Byte) (s : State) :
    (s.addAcc b).op = s.op := rfl

@[simp] theorem State.addAcc_acc (b : Byte) (s : State) :
    (s.addAcc b).acc = s.acc + b := rfl

@[simp] theorem State.addAcc_idx (b : Byte) (s : State) :
    (s.addAcc b).idx = s.idx := rfl

@[simp] theorem State.addAcc_len (b : Byte) (s : State) :
    (s.addAcc b).len = s.len := rfl

@[simp] theorem State.addAcc_pend (b : Byte) (s : State) :
    (s.addAcc b).pend = s.pend := rfl

@[simp] theorem State.addAcc_fault (b : Byte) (s : State) :
    (s.addAcc b).fault = s.fault := rfl

@[simp] theorem State.addAcc_rxq (b : Byte) (s : State) :
    (s.addAcc b).rxq = s.rxq := rfl

@[simp] theorem State.addAcc_txlog (b : Byte) (s : State) :
    (s.addAcc b).txlog = s.txlog := rfl

@[simp] theorem State.addAcc_params (b : Byte) (s : State) :
    (s.addAcc b).params = s.params := rfl

@[simp] theorem State.addAcc_agenda (b : Byte) (s : State) :
    (s.addAcc b).agenda = s.agenda := rfl

@[simp] theorem State.addAcc_turn (b : Byte) (s : State) :
    (s.addAcc b).turn = s.turn := rfl

@[simp] theorem State.addAcc_hostReads (b : Byte) (s : State) :
    (s.addAcc b).hostReads = s.hostReads := rfl

@[simp] theorem dropWrite_status (s : State) :
    (dropWrite s).status = statusDropped s.status := rfl

@[simp] theorem dropWrite_rxVer (s : State) :
    (dropWrite s).rxVer = s.rxVer := rfl

@[simp] theorem dropWrite_rxCmd (s : State) :
    (dropWrite s).rxCmd = s.rxCmd := rfl

@[simp] theorem dropWrite_rxLenHi (s : State) :
    (dropWrite s).rxLenHi = s.rxLenHi := rfl

@[simp] theorem dropWrite_rxLenLo (s : State) :
    (dropWrite s).rxLenLo = s.rxLenLo := rfl

@[simp] theorem dropWrite_rxCsum (s : State) :
    (dropWrite s).rxCsum = s.rxCsum := rfl

@[simp] theorem dropWrite_calcCsum (s : State) :
    (dropWrite s).calcCsum = s.calcCsum := rfl

@[simp] theorem dropWrite_txVer (s : State) :
    (dropWrite s).txVer = s.txVer := rfl

@[simp] theorem dropWrite_txCmd (s : State) :
    (dropWrite s).txCmd = s.txCmd := rfl

@[simp] theorem dropWrite_txLenHi (s : State) :
    (dropWrite s).txLenHi = s.txLenHi := rfl

@[simp] theorem dropWrite_txLenLo (s : State) :
    (dropWrite s).txLenLo = s.txLenLo := rfl

@[simp] theorem dropWrite_csumExpect (s : State) :
    (dropWrite s).csumExpect = s.csumExpect := rfl

@[simp] theorem dropWrite_mem (s : State) :
    (dropWrite s).mem = s.mem := rfl

@[simp] theorem dropWrite_phase (s : State) :
    (dropWrite s).phase = s.phase := rfl

@[simp] theorem dropWrite_op (s : State) :
    (dropWrite s).op = s.op := rfl

@[simp] theorem dropWrite_acc (s : State) :
    (dropWrite s).acc = s.acc := rfl

@[simp] theorem dropWrite_idx (s : State) :
    (dropWrite s).idx = s.idx := rfl

@[simp] theorem dropWrite_len (s : State) :
    (dropWrite s).len = s.len := rfl

@[simp] theorem dropWrite_pend (s : State) :
    (dropWrite s).pend = s.pend := rfl

@[simp] theorem dropWrite_fault (s : State) :
    (dropWrite s).fault = s.fault := rfl

@[simp] theorem dropWrite_rxq (s : State) :
    (dropWrite s).rxq = s.rxq := rfl

@[simp] theorem dropWrite_txlog (s : State) :
    (dropWrite s).txlog = s.txlog := rfl

@[simp] theorem dropWrite_params (s : State) :
    (dropWrite s).params = s.params := rfl

@[simp] theorem dropWrite_agenda (s : State) :
    (dropWrite s).agenda = s.agenda := rfl

@[simp] theorem dropWrite_turn (s : State) :
    (dropWrite s).turn = s.turn := rfl

@[simp] theorem dropWrite_hostReads (s : State) :
    (dropWrite s).hostReads = s.hostReads := rfl

@[simp] theorem illegalWrite_status (s : State) :
    (illegalWrite s).status = statusIllegal s.status := rfl

@[simp] theorem illegalWrite_rxVer (s : State) :
    (illegalWrite s).rxVer = s.rxVer := rfl

@[simp] theorem illegalWrite_rxCmd (s : State) :
    (illegalWrite s).rxCmd = s.rxCmd := rfl

@[simp] theorem illegalWrite_rxLenHi (s : State) :
    (illegalWrite s).rxLenHi = s.rxLenHi := rfl

@[simp] theorem illegalWrite_rxLenLo (s : State) :
    (illegalWrite s).rxLenLo = s.rxLenLo := rfl

@[simp] theorem illegalWrite_rxCsum (s : State) :
    (illegalWrite s).rxCsum = s.rxCsum := rfl

@[simp] theorem illegalWrite_calcCsum (s : State) :
    (illegalWrite s).calcCsum = s.calcCsum := rfl

@[simp] theorem illegalWrite_txVer (s : State) :
    (illegalWrite s).txVer = s.txVer := rfl

@[simp] theorem illegalWrite_txCmd (s : State) :
    (illegalWrite s).txCmd = s.txCmd := rfl

@[simp] theorem illegalWrite_txLenHi (s : State) :
    (illegalWrite s).txLenHi = s.txLenHi := rfl

@[simp] theorem illegalWrite_txLenLo (s : State) :
    (illegalWrite s).txLenLo = s.txLenLo := rfl

@[simp] theorem illegalWrite_csumExpect (s : State) :
    (illegalWrite s).csumExpect = s.csumExpect := rfl

@[simp] theorem illegalWrite_mem (s : State) :
    (illegalWrite s).mem = s.mem := rfl

@[simp] theorem illegalWrite_phase (s : State) :
    (illegalWrite s).phase = s.phase := rfl

@[simp] theorem illegalWrite_op (s : State) :
    (illegalWrite s).op = s.op := rfl

@[simp] theorem illegalWrite_acc (s : State) :
    (illegalWrite s).acc = s.acc := rfl

@[simp] theorem illegalWrite_idx (s : State) :
    (illegalWrite s).idx = s.idx := rfl

@[simp] theorem illegalWrite_len (s : State) :
    (illegalWrite s).len = s.len := rfl

@[simp] theorem illegalWrite_pend (s : State) :
    (illegalWrite s).pend = s.pend := rfl

@[simp] theorem illegalWrite_fault (s : State) :
    (illegalWrite s).fault = s.fault := rfl

@[simp] theorem illegalWrite_rxq (s : State) :
    (illegalWrite s).rxq = s.rxq := rfl

@[simp] theorem illegalWrite_txlog (s : State) :
    (illegalWrite s).txlog = s.txlog := rfl

@[simp] theorem illegalWrite_params (s : State) :
    (illegalWrite s).params = s.params := rfl

@[simp] theorem illegalWrite_agenda (s : State) :
    (illegalWrite s).agenda = s.agenda := rfl

@[simp] theorem illegalWrite_turn (s : State) :
    (illegalWrite s).turn = s.turn := rfl

@[simp] theorem illegalWrite_hostReads (s : State) :
    (illegalWrite s).hostReads = s.hostReads := rfl

@[simp] theorem accept_status (o : Operation) (s : State) :
    (accept o s).status = statusAccepted := rfl

@[simp] theorem accept_rxVer (o : Operation) (s : State) :
    (accept o s).rxVer = s.rxVer := rfl

@[simp] theorem accept_rxCmd (o : Operation) (s : State) :
    (accept o s).rxCmd = s.rxCmd := rfl

@[simp] theorem accept_rxLenHi (o : Operation) (s : State) :
    (accept o s).rxLenHi = s.rxLenHi := rfl

@[simp] theorem accept_rxLenLo (o : Operation) (s : State) :
    (accept o s).rxLenLo = s.rxLenLo := rfl

@[simp] theorem accept_rxCsum (o : Operation) (s : State) :
    (accept o s).rxCsum = s.rxCsum := rfl

@[simp] theorem accept_calcCsum (o : Operation) (s : State) :
    (accept o s).calcCsum = s.calcCsum := rfl

@[simp] theorem accept_txVer (o : Operation) (s : State) :
    (accept o s).txVer = s.txVer := rfl

@[simp] theorem accept_txCmd (o : Operation) (s : State) :
    (accept o s).txCmd = s.txCmd := rfl

@[simp] theorem accept_txLenHi (o : Operation) (s : State) :
    (accept o s).txLenHi = s.txLenHi := rfl

@[simp] theorem accept_txLenLo (o : Operation) (s : State) :
    (accept o s).txLenLo = s.txLenLo := rfl

@[simp] theorem accept_csumExpect (o : Operation) (s : State) :
    (accept o s).csumExpect = s.csumExpect := rfl

@[simp] theorem accept_mem (o : Operation) (s : State) :
    (accept o s).mem = s.mem := rfl

@[simp] theorem accept_phase (o : Operation) (s : State) :
    (accept o s).phase = startPhase o := rfl

@[simp] theorem accept_op (o : Operation) (s : State) :
    (accept o s).op = o := rfl

@[simp] theorem accept_acc (o : Operation) (s : State) :
    (accept o s).acc = s.acc := rfl

@[simp] theorem accept_idx (o : Operation) (s : State) :
    (accept o s).idx = s.idx := rfl

@[simp] theorem accept_len (o : Operation) (s : State) :
    (accept o s).len = s.len := rfl

@[simp] theorem accept_pend (o : Operation) (s : State) :
    (accept o s).pend = s.pend := rfl

@[simp] theorem accept_fault (o : Operation) (s : State) :
    (accept o s).fault = s.fault := rfl

@[simp] theorem accept_rxq (o : Operation) (s : State) :
    (accept o s).rxq = s.rxq := rfl

@[simp] theorem accept_txlog (o : Operation) (s : State) :
    (accept o s).txlog = s.txlog := rfl

@[simp] theorem accept_params (o : Operation) (s : State) :
    (accept o s).params = s.params := rfl

@[simp] theorem accept_agenda (o : Operation) (s : State) :
    (accept o s).agenda = s.agenda := rfl

@[simp] theorem accept_turn (o : Operation) (s : State) :
    (accept o s).turn = s.turn := rfl

@[simp] theorem accept_hostReads (o : Operation) (s : State) :
    (accept o s).hostReads = s.hostReads := rfl

@[simp] theorem complete_status (c : Result) (v m : Bool) (s : State) :
    (complete c v m s).status = statusCompleted c v m s.status := rfl

@[simp] theorem complete_rxVer (c : Result) (v m : Bool) (s : State) :
    (complete c v m s).rxVer = s.rxVer := rfl

@[simp] theorem complete_rxCmd (c : Result) (v m : Bool) (s : State) :
    (complete c v m s).rxCmd = s.rxCmd := rfl

@[simp] theorem complete_rxLenHi (c : Result) (v m : Bool) (s : State) :
    (complete c v m s).rxLenHi = s.rxLenHi := rfl

@[simp] theorem complete_rxLenLo (c : Result) (v m : Bool) (s : State) :
    (complete c v m s).rxLenLo = s.rxLenLo := rfl

@[simp] theorem complete_rxCsum (c : Result) (v m : Bool) (s : State) :
    (complete c v m s).rxCsum = s.rxCsum := rfl

@[simp] theorem complete_calcCsum (c : Result) (v m : Bool) (s : State) :
    (complete c v m s).calcCsum = s.calcCsum := rfl

@[simp] theorem complete_txVer (c : Result) (v m : Bool) (s : State) :
    (complete c v m s).txVer = s.txVer := rfl

@[simp] theorem complete_txCmd (c : Result) (v m : Bool) (s : State) :
    (complete c v m s).txCmd = s.txCmd := rfl

@[simp] theorem complete_txLenHi (c : Result) (v m : Bool) (s : State) :
    (complete c v m s).txLenHi = s.txLenHi := rfl

@[simp] theorem complete_txLenLo (c : Result) (v m : Bool) (s : State) :
    (complete c v m s).txLenLo = s.txLenLo := rfl

@[simp] theorem complete_csumExpect (c : Result) (v m : Bool) (s : State) :
    (complete c v m s).csumExpect = s.csumExpect := rfl

@[simp] theorem complete_mem (c : Result) (v m : Bool) (s : State) :
    (complete c v m s).mem = s.mem := rfl

@[simp] theorem complete_phase (c : Result) (v m : Bool) (s : State) :
    (complete c v m s).phase = Phase.idle := rfl

@[simp] theorem complete_op (c : Result) (v m : Bool) (s : State) :
    (complete c v m s).op = Operation.none := rfl

@[simp] theorem complete_acc (c : Result) (v m : Bool) (s : State) :
    (complete c v m s).acc = s.acc := rfl

@[simp] theorem complete_idx (c : Result) (v m : Bool) (s : State) :
    (complete c v m s).idx = s.idx := rfl

@[simp] theorem complete_len (c : Result) (v m : Bool) (s : State) :
    (complete c v m s).len = s.len := rfl

@[simp] theorem complete_pend (c : Result) (v m : Bool) (s : State) :
    (complete c v m s).pend = s.pend := rfl

@[simp] theorem complete_fault (c : Result) (v m : Bool) (s : State) :
    (complete c v m s).fault = s.fault := rfl

@[simp] theorem complete_rxq (c : Result) (v m : Bool) (s : State) :
    (complete c v m s).rxq = s.rxq := rfl

@[simp] theorem complete_txlog (c : Result) (v m : Bool) (s : State) :
    (complete c v m s).txlog = s.txlog := rfl

@[simp] theorem complete_params (c : Result) (v m : Bool) (s : State) :
    (complete c v m s).params = s.params := rfl

@[simp] theorem complete_agenda (c : Result) (v m : Bool) (s : State) :
    (complete c v m s).agenda = s.agenda := rfl

@[simp] theorem complete_turn (c : Result) (v m : Bool) (s : State) :
    (complete c v m s).turn = s.turn := rfl

@[simp] theorem complete_hostReads (c : Result) (v m : Bool) (s : State) :
    (complete c v m s).hostReads = s.hostReads := rfl

@[simp] theorem resetFce_status (s : State) :
    (resetFce s).status = State.reset.status := rfl

@[simp] theorem resetFce_rxVer (s : State) :
    (resetFce s).rxVer = State.reset.rxVer := rfl

@[simp] theorem resetFce_rxCmd (s : State) :
    (resetFce s).rxCmd = State.reset.rxCmd := rfl

@[simp] theorem resetFce_rxLenHi (s : State) :
    (resetFce s).rxLenHi = State.reset.rxLenHi := rfl

@[simp] theorem resetFce_rxLenLo (s : State) :
    (resetFce s).rxLenLo = State.reset.rxLenLo := rfl

@[simp] theorem resetFce_rxCsum (s : State) :
    (resetFce s).rxCsum = State.reset.rxCsum := rfl

@[simp] theorem resetFce_calcCsum (s : State) :
    (resetFce s).calcCsum = State.reset.calcCsum := rfl

@[simp] theorem resetFce_txVer (s : State) :
    (resetFce s).txVer = State.reset.txVer := rfl

@[simp] theorem resetFce_txCmd (s : State) :
    (resetFce s).txCmd = State.reset.txCmd := rfl

@[simp] theorem resetFce_txLenHi (s : State) :
    (resetFce s).txLenHi = State.reset.txLenHi := rfl

@[simp] theorem resetFce_txLenLo (s : State) :
    (resetFce s).txLenLo = State.reset.txLenLo := rfl

@[simp] theorem resetFce_csumExpect (s : State) :
    (resetFce s).csumExpect = State.reset.csumExpect := rfl

@[simp] theorem resetFce_mem (s : State) :
    (resetFce s).mem = State.reset.mem := rfl

@[simp] theorem resetFce_phase (s : State) :
    (resetFce s).phase = State.reset.phase := rfl

@[simp] theorem resetFce_op (s : State) :
    (resetFce s).op = State.reset.op := rfl

@[simp] theorem resetFce_acc (s : State) :
    (resetFce s).acc = State.reset.acc := rfl

@[simp] theorem resetFce_idx (s : State) :
    (resetFce s).idx = State.reset.idx := rfl

@[simp] theorem resetFce_len (s : State) :
    (resetFce s).len = State.reset.len := rfl

@[simp] theorem resetFce_pend (s : State) :
    (resetFce s).pend = State.reset.pend := rfl

@[simp] theorem resetFce_fault (s : State) :
    (resetFce s).fault = s.fault := rfl

@[simp] theorem resetFce_rxq (s : State) :
    (resetFce s).rxq = s.rxq := rfl

@[simp] theorem resetFce_txlog (s : State) :
    (resetFce s).txlog = s.txlog := rfl

@[simp] theorem resetFce_params (s : State) :
    (resetFce s).params = s.params := rfl

@[simp] theorem resetFce_agenda (s : State) :
    (resetFce s).agenda = s.agenda := rfl

@[simp] theorem resetFce_turn (s : State) :
    (resetFce s).turn = s.turn := rfl

@[simp] theorem resetFce_hostReads (s : State) :
    (resetFce s).hostReads = s.hostReads := rfl

end Sys2Proof.Machine
end

