-- ==== Sys2Proof/Laws/Operations.lean ====
section
/-! SUPPORT. One lemma for each shared operation that says everything it can do: taking a byte,
CTRL writes, host accesses, arrivals, terminal outcomes. -/

namespace Sys2Proof.Machine

open Sys2Proof

theorem popOr_nil {s : State} (e : State) (go : Byte → State → State) (h : s.rxq = []) :
    s.popOr e go = e := by
  simp [State.popOr, h]

theorem popOr_cons {s : State} (e : State) (go : Byte → State → State) {b : Byte} {r : List Byte}
    (h : s.rxq = b :: r) : s.popOr e go = go b { s with rxq := r } := by
  simp [State.popOr, h]

/-- Terminal publishes under RETAIN and drains under DISCARD (R100). -/
theorem terminal_cases (c : Result) (v m : Bool) (s : State) :
    (s.params.remainderPolicy = .retain ∧ terminal c v m s = complete c v m s) ∨
    (s.params.remainderPolicy = .discard ∧
      terminal c v m s = { s with pend := ⟨c, v, m⟩, phase := .rxDrain }) := by
  unfold terminal
  cases h : s.params.remainderPolicy
  · exact .inr ⟨rfl, rfl⟩
  · exact .inl ⟨rfl, rfl⟩

/-- An arrival appends its byte or changes nothing (R51). -/
theorem rxArrive_cases (b : Byte) (s : State) :
    rxArrive b s = { s with rxq := s.rxq ++ [b] } ∨ rxArrive b s = s := by
  unfold rxArrive
  split
  · exact .inl rfl
  · split
    · exact .inl rfl
    · exact .inr rfl

/-- A CTRL write answers a next state exactly when no fault is marked. -/
theorem ctrlWrite_next {go : State → State} {s t : State} :
    ctrlWrite go s = .next t ↔
      s.fault = none ∧ t = if s.status.busy then dropWrite s else go s := by
  unfold ctrlWrite
  cases s.fault with
  | none => exact ⟨fun h => ⟨rfl, by cases h; rfl⟩, fun h => by rw [h.2]⟩
  | some f => simp

/-- What a CTRL write can do (40_control R74): drop, start an operation, or report ILLEGAL_OP. -/
theorem exec_cases {i : Instr} {s t : State} (h : exec i s = .next t) :
    s.fault = none ∧
    ((s.status.busy = true ∧ t = dropWrite s) ∨
     (s.status.busy = false ∧ ((∃ o, o ≠ .none ∧ t = accept o s) ∨ t = illegalWrite s))) := by
  have key : ∀ go : State → State, ctrlWrite go s = .next t →
      ((∃ o, o ≠ .none ∧ go s = accept o s) ∨ go s = illegalWrite s) →
      s.fault = none ∧
      ((s.status.busy = true ∧ t = dropWrite s) ∨
       (s.status.busy = false ∧ ((∃ o, o ≠ .none ∧ t = accept o s) ∨ t = illegalWrite s))) := by
    intro go hc hgo
    obtain ⟨hf, ht⟩ := ctrlWrite_next.1 hc
    cases hb : s.status.busy with
    | true =>
      rw [hb, if_pos rfl] at ht
      exact ⟨hf, .inl ⟨rfl, ht⟩⟩
    | false =>
      rw [hb, if_neg (by simp)] at ht
      rw [ht]
      exact ⟨hf, .inr ⟨rfl, hgo⟩⟩
  cases i with
  | csumCompute => exact key _ h (.inl ⟨.csumCompute, by simp, rfl⟩)
  | csumValidate => exact key _ h (.inl ⟨.csumValidate, by simp, rfl⟩)
  | decode => exact key _ h (.inl ⟨.decode, by simp, rfl⟩)
  | encode => exact key _ h (.inl ⟨.encode, by simp, rfl⟩)
  | encodeEmpty => exact key _ h (.inl ⟨.encodeEmpty, by simp, rfl⟩)
  | illegal v => exact key _ h (.inr rfl)

/-- A host read gives the host a byte or marks a fault, and nothing else (20_memory R42, R47). -/
theorem hostRead_cases (a : Addr) (s : State) :
    (∃ v, memRead a s = .ok v ∧ hostRead a s = { s with hostReads := s.hostReads ++ [(a, v)] }) ∨
    (∃ f, memRead a s = .error f ∧ hostRead a s = s.raise f) := by
  unfold hostRead
  cases memRead a s with
  | ok v => exact .inl ⟨v, rfl, rfl⟩
  | error f => exact .inr ⟨f, rfl, rfl⟩

/-- The states a host write to an address other than CTRL can give from an idle FCE (R43). -/
def OperandWritten (s t : State) : Prop :=
  (∃ v, t = { s with txVer := v }) ∨ (∃ v, t = { s with txCmd := v }) ∨
  (∃ v, t = { s with txLenHi := v }) ∨ (∃ v, t = { s with txLenLo := v }) ∨
  (∃ v, t = { s with csumExpect := v }) ∨
  (∃ n v, 0x800 ≤ n ∧ n < 0xC00 ∧ t = { s with mem := Memory.write s.mem n v })

theorem operandWrite_cases (go : State → State) (s : State) :
    (s.status.busy = true ∧ operandWrite go s = dropWrite s) ∨
    (s.status.busy = false ∧ operandWrite go s = go s) := by
  unfold operandWrite
  cases s.status.busy <;> simp

/-- What a host write to an address other than CTRL can do (R43): nothing, a drop, or one byte. -/
theorem registerWrite_cases (a : Addr) (v : Byte) (s : State) :
    registerWrite a v s = s ∨ (s.status.busy = true ∧ registerWrite a v s = dropWrite s) ∨
    (s.status.busy = false ∧ OperandWritten s (registerWrite a v s)) := by
  have key : ∀ go : State → State, OperandWritten s (go s) →
      operandWrite go s = s ∨ (s.status.busy = true ∧ operandWrite go s = dropWrite s) ∨
      (s.status.busy = false ∧ OperandWritten s (operandWrite go s)) := by
    intro go hgo
    rcases operandWrite_cases go s with ⟨hb, h⟩ | ⟨hb, h⟩
    · exact .inr (.inl ⟨hb, h⟩)
    · exact .inr (.inr ⟨hb, h ▸ hgo⟩)
  unfold registerWrite
  split
  · exact key _ (.inl ⟨v, rfl⟩)
  · exact key _ (.inr (.inl ⟨v, rfl⟩))
  · exact key _ (.inr (.inr (.inl ⟨v, rfl⟩)))
  · exact key _ (.inr (.inr (.inr (.inl ⟨v, rfl⟩))))
  · exact key _ (.inr (.inr (.inr (.inr (.inl ⟨v, rfl⟩)))))
  · split
    · rename_i n _ _ _ _ _ hn
      exact key _ (.inr (.inr (.inr (.inr (.inr ⟨_, v, hn.1, hn.2, rfl⟩)))))
    · exact .inl rfl

end Sys2Proof.Machine
end

