-- ==== Sys2Proof/Laws/Engine.lean ====
section
/-! SUPPORT. What an engine turn does in each phase: a turn that is not enabled holds, and in a state
without a fault the turn is the phase's step (a phase that needs a byte holds without one). -/

namespace Sys2Proof.Machine

open Sys2Proof

/-- A turn is the phase's step or a hold. -/
theorem engineTurn_cases (a : SinkAnswer) (s : State) :
    (s.engineEnabled = true ∧ engineTurn a s = phaseStep a s) ∨
    (s.engineEnabled = false ∧ engineTurn a s = s) := by
  unfold engineTurn
  cases s.engineEnabled <;> simp

theorem engineTurn_faulted {a : SinkAnswer} {s : State} (h : s.fault ≠ none) :
    engineTurn a s = s := by
  have : s.engineEnabled = false := by
    cases hf : s.fault with
    | none => exact absurd hf h
    | some f => simp [State.engineEnabled, hf]
  simp [engineTurn, this]

theorem engineTurn_idle {a : SinkAnswer} {s : State} (hp : s.phase = .idle) :
    engineTurn a s = s := by
  simp [engineTurn, State.engineEnabled, hp]

/-- A step that needs a byte and has none is a hold (42_frame_decode R92). -/
theorem engineTurn_needsByte {a : SinkAnswer} {s : State} {go : Byte → State → State}
    (hf : s.fault = none) (he : s.engineEnabled = (s.fault.isNone && s.avail))
    (hs : phaseStep a s = s.popOr s go) : engineTurn a s = s.popOr s go := by
  cases hq : s.rxq with
  | nil => simp [engineTurn, he, State.avail, hq, popOr_nil]
  | cons b r => simp [engineTurn, he, State.avail, hq, hf, hs]

theorem engineTurn_csumCompute {a : SinkAnswer} {s : State} (hf : s.fault = none)
    (hp : s.phase = .cs) (ho : s.op = .csumCompute) : engineTurn a s = csumComputeStep s := by
  simp [engineTurn, State.engineEnabled, phaseStep, hf, hp, ho]

theorem engineTurn_csumValidate {a : SinkAnswer} {s : State} (hf : s.fault = none)
    (hp : s.phase = .cs) (ho : s.op = .csumValidate) : engineTurn a s = csumValidateStep s := by
  simp [engineTurn, State.engineEnabled, phaseStep, hf, hp, ho]

theorem engineTurn_rxHunt {a : SinkAnswer} {s : State} (hf : s.fault = none)
    (hp : s.phase = .rxHunt) : engineTurn a s = rxHuntStep s := by
  simp [engineTurn, State.engineEnabled, phaseStep, hf, hp]

theorem engineTurn_rxSync1 {a : SinkAnswer} {s : State} (hf : s.fault = none)
    (hp : s.phase = .rxSync1) : engineTurn a s = rxSync1Step s := by
  simp [engineTurn, State.engineEnabled, phaseStep, hf, hp]

theorem engineTurn_rxVer {a : SinkAnswer} {s : State} (hf : s.fault = none)
    (hp : s.phase = .rxVer) : engineTurn a s = rxVerStep s :=
  engineTurn_needsByte hf (by simp [State.engineEnabled, hp]) (by simp [phaseStep, hp, rxVerStep])

theorem engineTurn_rxCmd {a : SinkAnswer} {s : State} (hf : s.fault = none)
    (hp : s.phase = .rxCmd) : engineTurn a s = rxCmdStep s :=
  engineTurn_needsByte hf (by simp [State.engineEnabled, hp]) (by simp [phaseStep, hp, rxCmdStep])

theorem engineTurn_rxLenH {a : SinkAnswer} {s : State} (hf : s.fault = none)
    (hp : s.phase = .rxLenH) : engineTurn a s = rxLenHStep s :=
  engineTurn_needsByte hf (by simp [State.engineEnabled, hp]) (by simp [phaseStep, hp, rxLenHStep])

theorem engineTurn_rxLenL {a : SinkAnswer} {s : State} (hf : s.fault = none)
    (hp : s.phase = .rxLenL) : engineTurn a s = rxLenLStep s :=
  engineTurn_needsByte hf (by simp [State.engineEnabled, hp]) (by simp [phaseStep, hp, rxLenLStep])

theorem engineTurn_rxPay {a : SinkAnswer} {s : State} (hf : s.fault = none)
    (hp : s.phase = .rxPay) : engineTurn a s = rxPayStep s :=
  engineTurn_needsByte hf (by simp [State.engineEnabled, hp]) (by simp [phaseStep, hp, rxPayStep])

theorem engineTurn_rxCsum {a : SinkAnswer} {s : State} (hf : s.fault = none)
    (hp : s.phase = .rxCsum) : engineTurn a s = rxCsumStep s :=
  engineTurn_needsByte hf (by simp [State.engineEnabled, hp]) (by simp [phaseStep, hp, rxCsumStep])

theorem engineTurn_rxDrain {a : SinkAnswer} {s : State} (hf : s.fault = none)
    (hp : s.phase = .rxDrain) : engineTurn a s = rxDrainStep s := by
  simp [engineTurn, State.engineEnabled, phaseStep, hf, hp]

theorem engineTurn_txStart {a : SinkAnswer} {s : State} (hf : s.fault = none)
    (hp : s.phase = .txStart) : engineTurn a s = txStartStep s := by
  simp [engineTurn, State.engineEnabled, phaseStep, hf, hp]

theorem engineTurn_txEmit {a : SinkAnswer} {s : State} (hf : s.fault = none)
    (hp : s.phase = .txEmit) : engineTurn a s = txEmitStep a s := by
  simp [engineTurn, State.engineEnabled, phaseStep, hf, hp]

theorem engineTurn_txFlush {a : SinkAnswer} {s : State} (hf : s.fault = none)
    (hp : s.phase = .txFlush) : engineTurn a s = txFlushStep s := by
  simp [engineTurn, State.engineEnabled, phaseStep, hf, hp]

/-- RX_LENL reads the byte that RX_LENH stored. -/
@[simp] theorem receivedLenHi_some (hi b : Byte) : receivedLenHi (some hi) b = hi := rfl

@[simp] theorem engineRun_nil (s : State) : engineRun [] s = s := rfl

@[simp] theorem engineRun_cons (a : SinkAnswer) (as : List SinkAnswer) (s : State) :
    engineRun (a :: as) s = engineRun as (engineTurn a s) := rfl

theorem engineRun_append (as bs : List SinkAnswer) (s : State) :
    engineRun (as ++ bs) s = engineRun bs (engineRun as s) := by
  induction as generalizing s with
  | nil => rfl
  | cons a as ih => simp [ih]

/-- An idle engine stays as it is however many turns it is given. -/
theorem engineRun_idle {s : State} (hp : s.phase = .idle) (as : List SinkAnswer) :
    engineRun as s = s := by
  induction as with
  | nil => rfl
  | cons a as ih => simp [engineTurn_idle hp, ih]

/-- What CSUM_COMPUTE and CSUM_VALIDATE can do in their step (41_checksum R86, R87). -/
theorem csumStep_cases (g : Byte → Bool) (s : State) :
    csumStep g s = complete .tooLarge false false s ∨
    (∃ f, s.txPayload s.txLen = .error f ∧ csumStep g s = s.raise f) ∨
    (∃ P, s.txPayload s.txLen = .ok P ∧
      csumStep g s = complete .ok false (g (checksum s.params s.txVer s.txCmd s.txLen P))
        { s with calcCsum := some (checksum s.params s.txVer s.txCmd s.txLen P) }) := by
  unfold csumStep
  split
  · exact .inl rfl
  · cases s.txPayload s.txLen with
    | error f => exact .inr (.inl ⟨f, rfl, rfl⟩)
    | ok P => exact .inr (.inr ⟨P, rfl, rfl⟩)

/-- What the length check can do (42_frame_decode R96): what holds of its three outcomes holds of it. -/
theorem rxLenCheck_elim {C : State → Prop} (s : State)
    (tooLong : Config.maxPayload < s.len.toNat → C (terminal .overflow false false s))
    (zero : s.len = 0 → C { s with phase := .rxCsum })
    (ok : 0 < s.len.toNat → s.len.toNat ≤ Config.maxPayload →
      C { s with idx := 0, phase := .rxPay }) : C (rxLenCheck s) := by
  unfold rxLenCheck
  split
  · rename_i h
    exact tooLong h
  · rename_i h
    split
    · rename_i h0
      exact zero h0
    · rename_i h0
      refine ok ?_ (Nat.le_of_not_lt h)
      rcases Nat.eq_zero_or_pos s.len.toNat with hz | hp
      · exact absurd (BitVec.eq_of_toNat_eq (by simpa using hz)) h0
      · exact hp

/-- What an offer can do (43_frame_encode R113). -/
theorem txEmitStep_cases (a : SinkAnswer) (s : State) :
    (∃ f, s.offered = .error f ∧ txEmitStep a s = s.raise f) ∨
    (a = .wait ∧ txEmitStep a s = s) ∨
    (a = .reject ∧ txEmitStep a s = complete .sinkReject false false s) ∨
    (a = .accept ∧ ∃ b, s.offered = .ok b ∧ txEmitStep a s = txAccepted b s) := by
  unfold txEmitStep
  cases s.offered with
  | error f => exact .inl ⟨f, rfl, rfl⟩
  | ok b =>
    cases a with
    | accept => exact .inr (.inr (.inr ⟨rfl, b, rfl, rfl⟩))
    | reject => exact .inr (.inr (.inl ⟨rfl, rfl⟩))
    | wait => exact .inr (.inl ⟨rfl, rfl⟩)

/-- Every outcome of one engine turn, with what led to it: the relation the turn refines
(41_checksum R86, R87; 42_frame_decode R89-R101; 43_frame_encode R112-R114). -/
inductive TurnEffect (s : State) : State → Prop
  | hold : TurnEffect s s
  | csumTooLarge : s.phase = .cs → Config.maxPayload < s.txLen.toNat →
      TurnEffect s (complete .tooLarge false false s)
  | csumFault (f : Fault) : s.phase = .cs → s.op = .csumCompute ∨ s.op = .csumValidate →
      s.txLen.toNat ≤ Config.maxPayload → s.txPayload s.txLen = .error f → TurnEffect s (s.raise f)
  | csumDone (m : Bool) (c : Byte) : s.phase = .cs →
      TurnEffect s (complete .ok false m { s with calcCsum := some c })
  | noData : s.phase = .rxHunt ∨ s.phase = .rxSync1 → s.rxq = [] →
      TurnEffect s (complete .noData false false s)
  | search (p : Phase) (b : Byte) (r : List Byte) : s.phase = .rxHunt ∨ s.phase = .rxSync1 →
      s.rxq = b :: r → p = .rxHunt ∨ p = .rxSync1 → TurnEffect s { s with rxq := r, phase := p }
  | marker (r : List Byte) : s.phase = .rxSync1 → s.rxq = 0xAA :: r →
      TurnEffect s { s with rxq := r, acc := seed s.params, phase := .rxVer }
  | version (b : Byte) (r : List Byte) : s.phase = .rxVer → s.rxq = b :: r →
      TurnEffect s { s with rxq := r, acc := s.acc + b, rxVer := some b, phase := .rxCmd }
  | command (b : Byte) (r : List Byte) : s.phase = .rxCmd → s.rxq = b :: r →
      TurnEffect s { s with rxq := r, acc := s.acc + b, rxCmd := some b, phase := .rxLenH }
  | lenHi (b : Byte) (r : List Byte) : s.phase = .rxLenH → s.rxq = b :: r →
      TurnEffect s { s with rxq := r, acc := s.acc + b, rxLenHi := some b, phase := .rxLenL }
  | overflow (hi b : Byte) (r : List Byte) : s.phase = .rxLenL → receivedLenHi s.rxLenHi b = hi →
      s.rxq = b :: r → Config.maxPayload < (u16 hi b).toNat →
      TurnEffect s (terminal .overflow false false
        { s with rxq := r, acc := s.acc + b, rxLenLo := some b, len := u16 hi b })
  | lenZero (hi b : Byte) (r : List Byte) : s.phase = .rxLenL → receivedLenHi s.rxLenHi b = hi →
      s.rxq = b :: r → u16 hi b = 0 →
      TurnEffect s { s with rxq := r, acc := s.acc + b, rxLenLo := some b, len := u16 hi b,
                            phase := .rxCsum }
  | lenOk (hi b : Byte) (r : List Byte) : s.phase = .rxLenL → receivedLenHi s.rxLenHi b = hi →
      s.rxq = b :: r → 0 < (u16 hi b).toNat → (u16 hi b).toNat ≤ Config.maxPayload →
      TurnEffect s { s with rxq := r, acc := s.acc + b, rxLenLo := some b, len := u16 hi b,
                            idx := 0, phase := .rxPay }
  | payloadEnd (b : Byte) (r : List Byte) : s.phase = .rxPay → s.rxq = b :: r →
      s.idx.toNat + 1 = s.len.toNat →
      TurnEffect s { s with rxq := r, acc := s.acc + b, phase := .rxCsum,
                            mem := Memory.write s.mem (rxBufAddr (s.idx.setWidth 10)) b }
  | payload (b : Byte) (r : List Byte) : s.phase = .rxPay → s.rxq = b :: r →
      s.idx.toNat + 1 ≠ s.len.toNat →
      TurnEffect s { s with rxq := r, acc := s.acc + b, idx := s.idx + 1,
                            mem := Memory.write s.mem (rxBufAddr (s.idx.setWidth 10)) b }
  | csumOk (b : Byte) (r : List Byte) : s.phase = .rxCsum → s.rxq = b :: r → b = s.acc →
      TurnEffect s (terminal .ok true true
        { s with rxq := r, rxCsum := some b, calcCsum := some s.acc })
  | csumWrong (b : Byte) (r : List Byte) : s.phase = .rxCsum → s.rxq = b :: r → b ≠ s.acc →
      TurnEffect s (terminal .checksumMismatch false false
        { s with rxq := r, rxCsum := some b, calcCsum := some s.acc })
  | drainEnd : s.phase = .rxDrain → s.rxq = [] →
      TurnEffect s (complete s.pend.code s.pend.valid s.pend.csumMatch s)
  | drain (b : Byte) (r : List Byte) : s.phase = .rxDrain → s.rxq = b :: r →
      TurnEffect s { s with rxq := r }
  | txTooLarge : s.phase = .txStart → Config.maxPayload < s.encodeLen.toNat →
      TurnEffect s (complete .tooLarge false false s)
  | txStart : s.phase = .txStart → s.encodeLen.toNat ≤ Config.maxPayload →
      TurnEffect s { s with len := s.encodeLen, idx := 0, acc := seed s.params, phase := .txEmit }
  | txFault (f : Fault) : s.phase = .txEmit → s.offered = .error f → TurnEffect s (s.raise f)
  | txReject (b : Byte) : s.phase = .txEmit → s.offered = .ok b →
      TurnEffect s (complete .sinkReject false false s)
  | txAccept (b : Byte) : s.phase = .txEmit → s.offered = .ok b → TurnEffect s (txAccepted b s)
  | txFlush : s.phase = .txFlush → TurnEffect s (complete .ok false false (s.emit .flush))

/-- The step of a phase gives one of these outcomes. -/
theorem phaseStep_effect (a : SinkAnswer) {s : State}
    (hcs : s.phase = .cs → s.op = .csumCompute ∨ s.op = .csumValidate) :
    TurnEffect s (phaseStep a s) := by
  have hcsum : ∀ g, s.phase = .cs → TurnEffect s (csumStep g s) := by
    intro g hp
    unfold csumStep
    split
    · rename_i h
      exact .csumTooLarge hp h
    · rename_i h
      cases ht : s.txPayload s.txLen with
      | error f => exact .csumFault f hp (hcs hp) (Nat.le_of_not_lt h) ht
      | ok P => exact .csumDone _ _ hp
  have hdrop : ∀ (go : Byte → State → State), (∀ b r, s.rxq = b :: r →
      TurnEffect s (go b { s with rxq := r })) → TurnEffect s (s.popOr s go) := by
    intro go h
    cases hq : s.rxq with
    | nil => rw [popOr_nil _ _ hq]; exact .hold
    | cons b r => rw [popOr_cons _ _ hq]; exact h b r hq
  cases hp : s.phase with
  | idle => simp only [phaseStep, hp]; exact .hold
  | cs =>
    simp only [phaseStep, hp]
    split
    · exact hcsum _ hp
    · exact hcsum _ hp
  | rxHunt =>
    simp only [phaseStep, hp, rxHuntStep]
    cases hq : s.rxq with
    | nil => rw [popOr_nil _ _ hq]; exact .noData (.inl hp) hq
    | cons b r =>
      rw [popOr_cons _ _ hq]
      dsimp only
      split
      · exact .search _ b r (.inl hp) hq (.inr rfl)
      · exact .search _ b r (.inl hp) hq (.inl rfl)
  | rxSync1 =>
    simp only [phaseStep, hp, rxSync1Step]
    cases hq : s.rxq with
    | nil => rw [popOr_nil _ _ hq]; exact .noData (.inr hp) hq
    | cons b r =>
      rw [popOr_cons _ _ hq]
      dsimp only
      split
      · rename_i hb
        subst hb
        exact .marker r hp hq
      · split
        · exact .search _ b r (.inr hp) hq (.inr rfl)
        · exact .search _ b r (.inr hp) hq (.inl rfl)
  | rxVer =>
    simp only [phaseStep, hp]
    exact hdrop _ fun b r hq => .version b r hp hq
  | rxCmd =>
    simp only [phaseStep, hp]
    exact hdrop _ fun b r hq => .command b r hp hq
  | rxLenH =>
    simp only [phaseStep, hp]
    exact hdrop _ fun b r hq => .lenHi b r hp hq
  | rxLenL =>
    simp only [phaseStep, hp]
    refine hdrop _ fun b r hq => ?_
    exact rxLenCheck_elim _ (fun hl => .overflow _ b r hp rfl hq hl)
      (fun hl => .lenZero _ b r hp rfl hq hl) (fun h0 hl => .lenOk _ b r hp rfl hq h0 hl)
  | rxPay =>
    simp only [phaseStep, hp]
    refine hdrop _ fun b r hq => ?_
    dsimp only
    split
    · rename_i h
      exact .payloadEnd b r hp hq h
    · rename_i h
      exact .payload b r hp hq h
  | rxCsum =>
    simp only [phaseStep, hp]
    refine hdrop _ fun b r hq => ?_
    dsimp only
    split
    · rename_i h
      exact .csumOk b r hp hq h
    · rename_i h
      exact .csumWrong b r hp hq h
  | rxDrain =>
    simp only [phaseStep, hp, rxDrainStep]
    cases hq : s.rxq with
    | nil => rw [popOr_nil _ _ hq]; exact .drainEnd hp hq
    | cons b r => rw [popOr_cons _ _ hq]; exact .drain b r hp hq
  | txStart =>
    simp only [phaseStep, hp, txStartStep]
    split
    · rename_i h
      exact .txTooLarge hp h
    · rename_i h
      exact .txStart hp (Nat.le_of_not_lt h)
  | txEmit =>
    simp only [phaseStep, hp]
    unfold txEmitStep
    cases ho : s.offered with
    | error f => exact .txFault f hp ho
    | ok b =>
      cases a with
      | accept => exact .txAccept b hp ho
      | reject => exact .txReject b hp ho
      | wait => exact .hold
  | txFlush => simp only [phaseStep, hp]; exact .txFlush hp

/-- Everything one engine turn can do: cite this, and unfold no phase's step. -/
theorem engineTurn_effect (a : SinkAnswer) (s : State) : TurnEffect s (engineTurn a s) := by
  rcases engineTurn_cases a s with ⟨he, h⟩ | ⟨-, h⟩
  · rw [h]
    refine phaseStep_effect a fun hp => ?_
    simpa [State.engineEnabled, hp] using (Bool.and_eq_true_iff.1 he).2
  · rw [h]
    exact .hold

end Sys2Proof.Machine
end

