-- ==== Sys2Proof/Laws/Memory.lean ====
section
/-! SUPPORT. The laws of the buffers' memory: a read after a write, the canonical form, and runs of
bytes. -/

namespace Sys2Proof.Machine

open Sys2Proof

@[simp] theorem Memory.read_nil (a : Nat) : Memory.read [] a = none := rfl

theorem Memory.read_cons (k : Nat) (b : Byte) (m : Memory) (a : Nat) :
    Memory.read ((k, b) :: m) a = if a = k then some b else Memory.read m a := rfl

@[simp] theorem Memory.read_write_same (m : Memory) (a : Nat) (v : Byte) :
    Memory.read (Memory.write m a v) a = some v := by
  induction m with
  | nil => simp [Memory.write, Memory.read]
  | cons c m ih =>
    obtain ⟨k, b⟩ := c
    simp only [Memory.write]
    split
    · simp [Memory.read]
    · split
      · simp [Memory.read]
      · rename_i hne
        simp [Memory.read, hne, ih]

theorem Memory.read_write_other {m : Memory} {a a' : Nat} (v : Byte) (h : a' ≠ a) :
    Memory.read (Memory.write m a v) a' = Memory.read m a' := by
  induction m with
  | nil => simp [Memory.write, Memory.read, h]
  | cons c m ih =>
    obtain ⟨k, b⟩ := c
    simp only [Memory.write]
    split
    · simp [Memory.read, h]
    · split
      · rename_i hk
        subst hk
        simp [Memory.read, h]
      · simp [Memory.read, ih]

theorem Memory.mem_write {m : Memory} {a : Nat} {v : Byte} {c : Host.Cell}
    (h : c ∈ Memory.write m a v) : c = (a, v) ∨ c ∈ m := by
  induction m with
  | nil => simpa [Memory.write] using h
  | cons d m ih =>
    obtain ⟨k, b⟩ := d
    simp only [Memory.write] at h
    split at h
    · simpa using h
    · split at h
      · rcases List.mem_cons.1 h with h | h
        · exact .inl h
        · exact .inr (List.mem_cons_of_mem _ h)
      · rcases List.mem_cons.1 h with h | h
        · exact .inr (by simp [h])
        · exact (ih h).imp id (List.mem_cons_of_mem _)

/-- A write to a buffer address keeps the canonical form. -/
theorem Memory.wf_write {m : Memory} (a : Nat) (v : Byte) (h : Memory.wf m)
    (lo : 0x400 ≤ a) (hi : a < 0xC00) : Memory.wf (Memory.write m a v) := by
  refine ⟨?_, fun c hc => ?_⟩
  · have hp := h.1
    clear h lo hi
    induction m with
    | nil => simp [Memory.write]
    | cons d m ih =>
      obtain ⟨k, b⟩ := d
      obtain ⟨hk, hm⟩ := List.pairwise_cons.1 hp
      simp only [Memory.write]
      split
      · rename_i hlt
        refine List.pairwise_cons.2 ⟨fun e he => ?_, hp⟩
        rcases List.mem_cons.1 he with he | he
        · subst he; exact hlt
        · exact Nat.lt_trans hlt (hk e he)
      · split
        · rename_i heq
          subst heq
          exact List.pairwise_cons.2 ⟨hk, hm⟩
        · rename_i h1 h2
          refine List.pairwise_cons.2 ⟨fun e he => ?_, ih hm⟩
          rcases Memory.mem_write he with he | he
          · subst he; show k < a; omega
          · exact hk e he
  · rcases Memory.mem_write hc with hc | hc
    · subst hc; exact ⟨lo, hi⟩
    · exact h.2 c hc

theorem Memory.wf_nil : Memory.wf [] := by simp [Memory.wf]

@[simp] theorem Memory.readRun_zero (m : Memory) (a : Nat) : Memory.readRun m a 0 = .ok [] := rfl

/-- A run answers its bytes exactly when every address of it holds the byte of its place. -/
theorem Memory.readRun_ok_iff {m : Memory} {n : Nat} : ∀ {a : Nat} {bs : List Byte},
    Memory.readRun m a n = .ok bs ↔
      bs.length = n ∧ ∀ i < n, Memory.read m (a + i) = bs[i]? := by
  induction n with
  | zero =>
    intro a bs
    cases bs <;> simp
  | succ n ih =>
    intro a bs
    simp only [Memory.readRun]
    constructor
    · intro h
      split at h
      · cases h
      · rename_i b hb
        split at h
        · cases h
        · rename_i rest hr
          cases h
          obtain ⟨hl, hi⟩ := ih.1 hr
          refine ⟨by simp [hl], fun i hn => ?_⟩
          cases i with
          | zero => simpa using hb
          | succ i =>
            have := hi i (by omega)
            simpa [Nat.add_assoc, Nat.add_comm 1 i] using this
    · rintro ⟨hl, hi⟩
      cases bs with
      | nil => simp at hl
      | cons b rest =>
        have h0 := hi 0 (by omega)
        simp only [Nat.add_zero, List.getElem?_cons_zero] at h0
        have hr : Memory.readRun m (a + 1) n = .ok rest := by
          refine ih.2 ⟨by simpa using hl, fun i hn => ?_⟩
          have := hi (i + 1) (by omega)
          simpa [Nat.add_assoc, Nat.add_comm 1 i] using this
        simp [h0, hr]

/-- A run's error is the lowest of its addresses that holds ⊥. -/
theorem Memory.readRun_error_iff {m : Memory} {n : Nat} : ∀ {a e : Nat},
    Memory.readRun m a n = .error e ↔
      ∃ i < n, e = a + i ∧ Memory.read m e = none ∧ ∀ j < i, Memory.read m (a + j) ≠ none := by
  induction n with
  | zero => intro a e; simp
  | succ n ih =>
    intro a e
    simp only [Memory.readRun]
    cases hb : Memory.read m a with
    | none =>
      simp only [Except.error.injEq]
      constructor
      · rintro rfl
        exact ⟨0, by omega, rfl, hb, by simp⟩
      · rintro ⟨i, -, rfl, -, hj⟩
        cases i with
        | zero => rfl
        | succ i => exact absurd hb (hj 0 (by omega))
    | some b =>
      have hrec : ((match Memory.readRun m (a + 1) n with
          | .error e => .error e
          | .ok bs => .ok (b :: bs) : Except Nat (List Byte)) = .error e) ↔
          Memory.readRun m (a + 1) n = .error e := by
        cases Memory.readRun m (a + 1) n <;> simp
      refine hrec.trans (ih.trans ⟨?_, ?_⟩)
      · rintro ⟨i, hi, rfl, he, hj⟩
        refine ⟨i + 1, by omega, by omega, he, fun j hlt => ?_⟩
        cases j with
        | zero => simp [hb]
        | succ j =>
          have := hj j (by omega)
          rwa [Nat.add_assoc, Nat.add_comm 1 j] at this
      · rintro ⟨i, hi, rfl, he, hj⟩
        cases i with
        | zero => simp [hb] at he
        | succ i =>
          refine ⟨i, by omega, by omega, he, fun j hlt => ?_⟩
          have := hj (j + 1) (by omega)
          rwa [Nat.add_assoc, Nat.add_comm 1 j]

/-- A write outside a run leaves what the run reads. -/
theorem Memory.readRun_write_other {m : Memory} {x : Nat} (v : Byte) {n : Nat} : ∀ {a : Nat},
    (x < a ∨ a + n ≤ x) → Memory.readRun (Memory.write m x v) a n = Memory.readRun m a n := by
  induction n with
  | zero => intro a _; rfl
  | succ n ih =>
    intro a h
    have hx : a ≠ x := by omega
    simp only [Memory.readRun, Memory.read_write_other v hx, ih (a := a + 1) (by omega)]

/-- A run grows by the byte written at its end. -/
theorem Memory.readRun_write_end {m : Memory} {a n : Nat} {bs : List Byte} (v : Byte)
    (h : Memory.readRun m a n = .ok bs) :
    Memory.readRun (Memory.write m (a + n) v) a (n + 1) = .ok (bs ++ [v]) := by
  obtain ⟨hl, hi⟩ := Memory.readRun_ok_iff.1 h
  refine Memory.readRun_ok_iff.2 ⟨by simp [hl], fun i hn => ?_⟩
  by_cases hin : i = n
  · subst hin
    simp [← hl]
  · rw [Memory.read_write_other v (by omega), hi i (by omega), List.getElem?_append_left (by omega)]

/-- A run is the one before it and its last byte. -/
theorem Memory.readRun_succ_ok {m : Memory} {a n : Nat} {bs : List Byte} {v : Byte}
    (h : Memory.readRun m a n = .ok bs) (hv : Memory.read m (a + n) = some v) :
    Memory.readRun m a (n + 1) = .ok (bs ++ [v]) := by
  obtain ⟨hl, hi⟩ := Memory.readRun_ok_iff.1 h
  refine Memory.readRun_ok_iff.2 ⟨by simp [hl], fun i hn => ?_⟩
  by_cases hin : i = n
  · subst hin
    rw [hv, ← hl]
    simp
  · rw [hi i (by omega), List.getElem?_append_left (by omega)]

theorem Memory.readRun_length {m : Memory} {a n : Nat} {bs : List Byte}
    (h : Memory.readRun m a n = .ok bs) : bs.length = n := (Memory.readRun_ok_iff.1 h).1

@[simp] theorem bufIndex_toNat (n : Nat) : (bufIndex n).toNat = n % 1024 := by
  simp [bufIndex]

theorem rxBufAddr_lt (i : BufIndex) : rxBufAddr i < 0x800 := by
  have := i.isLt
  simp only [rxBufAddr]
  omega

theorem txBufAddr_range (i : BufIndex) : 0x800 ≤ txBufAddr i ∧ txBufAddr i < 0xC00 := by
  have := i.isLt
  simp only [txBufAddr]
  omega

end Sys2Proof.Machine
end

