-- ==== Sys2Proof/Laws/Operands.lean ====
section
/-! SUPPORT. The laws of byte order, of the byte sum and of the wire frame's shape. -/

namespace Sys2Proof.Machine

open Sys2Proof

@[simp] theorem hiByte_toNat (v : U16) : (hiByte v).toNat = v.toNat / 256 := by
  have := v.isLt
  simp only [hiByte, BitVec.extractLsb'_toNat, Nat.shiftRight_eq_div_pow]
  omega

@[simp] theorem loByte_toNat (v : U16) : (loByte v).toNat = v.toNat % 256 := by
  simp [loByte, BitVec.extractLsb'_toNat]

@[simp] theorem u16_toNat (hi lo : Byte) : (u16 hi lo).toNat = hi.toNat * 256 + lo.toNat := by
  have h := lo.isLt
  have e : 256 * hi.toNat + lo.toNat = 256 * hi.toNat ||| lo.toNat := by
    simpa using Nat.two_pow_add_eq_or_of_lt (i := 8) h hi.toNat
  simp only [u16, BitVec.toNat_append, Nat.shiftLeft_eq]
  rw [Nat.mul_comm, show (2 : Nat) ^ 8 = 256 from rfl, ← e, Nat.mul_comm]

@[simp] theorem u16_hiByte_loByte (v : U16) : u16 (hiByte v) (loByte v) = v := by
  apply BitVec.eq_of_toNat_eq
  simp only [u16_toNat, hiByte_toNat, loByte_toNat]
  omega

@[simp] theorem hiByte_u16 (hi lo : Byte) : hiByte (u16 hi lo) = hi := by
  apply BitVec.eq_of_toNat_eq
  have := lo.isLt
  simp only [hiByte_toNat, u16_toNat]
  omega

@[simp] theorem loByte_u16 (hi lo : Byte) : loByte (u16 hi lo) = lo := by
  apply BitVec.eq_of_toNat_eq
  have := lo.isLt
  simp only [loByte_toNat, u16_toNat]
  omega

@[simp] theorem sum8_nil : sum8 [] = 0 := rfl

@[simp] theorem sum8_cons (b : Byte) (bs : List Byte) : sum8 (b :: bs) = b + sum8 bs := rfl

theorem sum8_append (xs ys : List Byte) : sum8 (xs ++ ys) = sum8 xs + sum8 ys := by
  induction xs with
  | nil => simp
  | cons x xs ih => simp [ih, BitVec.add_assoc]

/-- A frame is well formed exactly when its payload fits (00_scope R7). -/
theorem frame_wf_iff {f : Frame} : f.wf = true ↔ f.payload.length ≤ 1024 := by
  simp [Frame.wf]

/-- A checksum grows by a payload byte, the length bytes staying (41_checksum R85). -/
theorem checksum_snoc (p : Params) (ver cmd : Byte) (L : U16) (P : List Byte) (b : Byte) :
    checksum p ver cmd L (P ++ [b]) = checksum p ver cmd L P + b := by
  simp [checksum, sum8_append, BitVec.add_assoc]

/-- With no payload byte summed yet, the checksum is that of the header. -/
theorem checksum_nil (p : Params) (ver cmd : Byte) (L : U16) :
    checksum p ver cmd L [] = seed p + ver + cmd + hiByte L + loByte L := by
  simp [checksum]

end Sys2Proof.Machine
end

