-- ==== Sys2Proof/Laws/PerInstr.lean ====
section
/-! SUPPORT. Families of statements made per instruction. CtrlWord: the shape of an instruction's CTRL
word (30_encoding R69-R71). -/

namespace Sys2Proof.Laws.CtrlWord

open Sys2Proof

/-- Whether an instruction starts an operation (R70). -/
def startsOperation : Instr → Bool
  | .csumCompute => true
  | .csumValidate => true
  | .decode => true
  | .encode => true
  | .encodeEmpty => true
  | .illegal _ => false

/-- A well-formed instruction's word is one byte long, and it starts an operation exactly when RSV is
00000 and OP is one of 001 to 101. -/
def Statement (i : Instr) : Prop :=
  i.wf = true → (encode i).length = 1 ∧
    (startsOperation i = true ↔
      ctrlRsv (ctrlByte i) = 0 ∧ 1 ≤ (ctrlOp (ctrlByte i)).toNat ∧ (ctrlOp (ctrlByte i)).toNat ≤ 5)

theorem csumCompute : Statement .csumCompute := fun _ => ⟨rfl, by decide⟩

theorem csumValidate : Statement .csumValidate := fun _ => ⟨rfl, by decide⟩

theorem decode : Statement .decode := fun _ => ⟨rfl, by decide⟩

theorem encode : Statement .encode := fun _ => ⟨rfl, by decide⟩

theorem encodeEmpty : Statement .encodeEmpty := fun _ => ⟨rfl, by decide⟩

theorem illegal (v : Byte) : Statement (.illegal v) := by
  intro h
  refine ⟨rfl, ?_⟩
  revert v
  decide

end Sys2Proof.Laws.CtrlWord
end

