-- ==== Sys2Proof/Laws/Step.lean ====
section
/-! SUPPORT. What a step can do: the choice of the agent, and one inversion lemma. -/

namespace Sys2Proof.Machine

open Sys2Proof

@[simp] theorem chosen_status (s : State) : s.chosen.status = s.status := by
  unfold State.chosen; split <;> rfl

@[simp] theorem chosen_rxVer (s : State) : s.chosen.rxVer = s.rxVer := by
  unfold State.chosen; split <;> rfl

@[simp] theorem chosen_rxCmd (s : State) : s.chosen.rxCmd = s.rxCmd := by
  unfold State.chosen; split <;> rfl

@[simp] theorem chosen_rxLenHi (s : State) : s.chosen.rxLenHi = s.rxLenHi := by
  unfold State.chosen; split <;> rfl

@[simp] theorem chosen_rxLenLo (s : State) : s.chosen.rxLenLo = s.rxLenLo := by
  unfold State.chosen; split <;> rfl

@[simp] theorem chosen_rxCsum (s : State) : s.chosen.rxCsum = s.rxCsum := by
  unfold State.chosen; split <;> rfl

@[simp] theorem chosen_calcCsum (s : State) : s.chosen.calcCsum = s.calcCsum := by
  unfold State.chosen; split <;> rfl

@[simp] theorem chosen_txVer (s : State) : s.chosen.txVer = s.txVer := by
  unfold State.chosen; split <;> rfl

@[simp] theorem chosen_txCmd (s : State) : s.chosen.txCmd = s.txCmd := by
  unfold State.chosen; split <;> rfl

@[simp] theorem chosen_txLenHi (s : State) : s.chosen.txLenHi = s.txLenHi := by
  unfold State.chosen; split <;> rfl

@[simp] theorem chosen_txLenLo (s : State) : s.chosen.txLenLo = s.txLenLo := by
  unfold State.chosen; split <;> rfl

@[simp] theorem chosen_csumExpect (s : State) : s.chosen.csumExpect = s.csumExpect := by
  unfold State.chosen; split <;> rfl

@[simp] theorem chosen_mem (s : State) : s.chosen.mem = s.mem := by
  unfold State.chosen; split <;> rfl

@[simp] theorem chosen_phase (s : State) : s.chosen.phase = s.phase := by
  unfold State.chosen; split <;> rfl

@[simp] theorem chosen_op (s : State) : s.chosen.op = s.op := by
  unfold State.chosen; split <;> rfl

@[simp] theorem chosen_acc (s : State) : s.chosen.acc = s.acc := by
  unfold State.chosen; split <;> rfl

@[simp] theorem chosen_idx (s : State) : s.chosen.idx = s.idx := by
  unfold State.chosen; split <;> rfl

@[simp] theorem chosen_len (s : State) : s.chosen.len = s.len := by
  unfold State.chosen; split <;> rfl

@[simp] theorem chosen_pend (s : State) : s.chosen.pend = s.pend := by
  unfold State.chosen; split <;> rfl

@[simp] theorem chosen_fault (s : State) : s.chosen.fault = s.fault := by
  unfold State.chosen; split <;> rfl

@[simp] theorem chosen_rxq (s : State) : s.chosen.rxq = s.rxq := by
  unfold State.chosen; split <;> rfl

@[simp] theorem chosen_txlog (s : State) : s.chosen.txlog = s.txlog := by
  unfold State.chosen; split <;> rfl

@[simp] theorem chosen_params (s : State) : s.chosen.params = s.params := by
  unfold State.chosen; split <;> rfl

@[simp] theorem chosen_hostReads (s : State) : s.chosen.hostReads = s.hostReads := by
  unfold State.chosen; split <;> rfl

/-- A scheduled step: the head of the agenda moves, and the agenda is what follows it. -/
theorem step_scheduled {s : State} {a : Action} {rest : List Action} (hf : s.fault = none)
    (h : s.agenda = a :: rest) : step s = act a { s with agenda := rest } := by
  simp [step, stepAgents, State.nextAction, State.chosen, hf, h]

/-- Everything a step can do: no fault was marked, and one agent acted on the state chosen. -/
theorem step_next {s t : State} :
    step s = .next t ↔ s.fault = none ∧ act s.nextAction s.chosen = .next t := by
  unfold step stepAgents
  cases s.fault <;> simp

/-- Everything one action can do. -/
theorem act_cases {a : Action} {s t : State} (h : act a s = .next t) :
    (∃ addr, a = .hostRead addr ∧ t = hostRead addr s) ∨
    (∃ v, a = .hostWrite 0x000 v ∧ exec (decodeCtrl v) s = .next t) ∨
    (∃ addr v, a = .hostWrite addr v ∧ addr ≠ 0x000 ∧ t = registerWrite addr v s) ∨
    (a = .reset ∧ t = resetFce s) ∨
    (∃ b, a = .arrive b ∧ t = rxArrive b s) ∨
    (∃ ans, a = .engine ans ∧ t = engineTurn ans s) := by
  cases a with
  | hostRead addr =>
    cases h
    exact .inl ⟨addr, rfl, rfl⟩
  | hostWrite addr v =>
    simp only [act, hostWrite] at h
    split at h
    · rename_i ha
      subst ha
      exact .inr (.inl ⟨v, rfl, h⟩)
    · rename_i ha
      cases h
      exact .inr (.inr (.inl ⟨addr, v, rfl, ha, rfl⟩))
  | reset =>
    cases h
    exact .inr (.inr (.inr (.inl ⟨rfl, rfl⟩)))
  | arrive b =>
    cases h
    exact .inr (.inr (.inr (.inr (.inl ⟨b, rfl, rfl⟩))))
  | engine ans =>
    cases h
    exact .inr (.inr (.inr (.inr (.inr ⟨ans, rfl, rfl⟩))))

end Sys2Proof.Machine
end

