-- ==== Sys2Proof/Machine/Script.lean ====
section
/-! DEFINITION. The host script (30_encoding R72, R73): the notation for a host's program and its
environment lines. The host's program is not part of the FCE (10_state R22), so it is a layer over
the agents' steps and no field of State. Names and labels are numbers. -/

namespace Sys2Proof.Machine

open Sys2Proof

/-- How the sink answers a script's offers: `env_sink accept*` and `env_sink reject@k` (R72). -/
inductive SinkPolicy where
  | acceptAll
  | rejectAt (k : Nat)
  deriving DecidableEq, Repr

/-- One line of a host script (R72), or the `reset` line of 95_test_vectors. -/
inductive ScriptLine where
  | wr (addr : Addr) (v : Byte)
  | rd (addr : Addr) (name : Nat)
  | envRx (bs : List Byte)
  | envSink (p : SinkPolicy)
  | label (l : Nat)
  | ifGoto (name : Nat) (bit : Fin 8) (b : Bool) (l : Nat)
  | reset
  deriving DecidableEq, Repr

/-- A script at work: the machine, the host's place in its program, the values its names hold
(latest first), the sink's policy and the offers made under it. -/
structure ScriptState where
  machine : State
  line : Nat
  names : List (Nat × Byte)
  sink : SinkPolicy
  offers : Nat
  deriving DecidableEq, Repr

/-- A script's start on a machine. Before its first `env_sink` line the sink accepts every offer: DESIGN
CHOICE, log entry 11 (R72 fixes no answer there; in the FCE's own steps each answer is a draw, 20_memory
R53). -/
def ScriptState.start (s : State) : ScriptState := ⟨s, 0, [], .acceptAll, 0⟩

/-- The value a name holds; 0 for a name no `rd` has given one. -/
def ScriptState.valueOf (c : ScriptState) (name : Nat) : Byte :=
  match c.names.find? (fun p => p.1 == name) with
  | some p => p.2
  | none => 0

/-- The first line with label `l`, or the end of the script if it has none (log entry 11). -/
def lineOfLabel (prog : List ScriptLine) (l : Nat) : Nat := prog.idxOf (.label l)

/-- The machine after one action; a fault or refusal leaves it as it is. -/
def afterAction (a : Action) (s : State) : State :=
  match act a s with
  | .next t => t
  | .fault _ => s
  | .refused _ => s

/-- The effect of the script's current line, in a machine without a fault. An `rd` that faults binds no
name and does not pass its line: DESIGN CHOICE, log entry 11. -/
def scriptLine (prog : List ScriptLine) (c : ScriptState) : ScriptState :=
  match prog[c.line]? with
  | none => c
  | some (.wr a v) => { c with machine := afterAction (.hostWrite a v) c.machine, line := c.line + 1 }
  | some (.rd a name) =>
    match memRead a c.machine with
    | .ok v =>
      { c with machine := afterAction (.hostRead a) c.machine, names := (name, v) :: c.names,
               line := c.line + 1 }
    | .error _ => { c with machine := afterAction (.hostRead a) c.machine }
  | some (.envRx bs) =>
    { c with machine := bs.foldl (fun s b => afterAction (.arrive b) s) c.machine, line := c.line + 1 }
  | some (.envSink p) => { c with sink := p, offers := 0, line := c.line + 1 }
  | some (.label _) => { c with line := c.line + 1 }
  | some (.ifGoto name bit b l) =>
    { c with line := if (c.valueOf name).getLsb bit = b then lineOfLabel prog l else c.line + 1 }
  | some .reset => { c with machine := afterAction .reset c.machine, line := c.line + 1 }

/-- A step of a script: none once the machine is faulted, since no agent has one (00_scope R16, 10_state
R39). That the host's own lines, a label or a branch, stop with it is a DESIGN CHOICE, log entry 11. -/
def scriptStep (go : ScriptState → ScriptState) (c : ScriptState) : ScriptState :=
  match c.machine.fault with
  | some _ => c
  | none => go c

/-- The host, or the environment its line speaks for, takes its next line. -/
def scriptLineStep (prog : List ScriptLine) (c : ScriptState) : ScriptState :=
  scriptStep (scriptLine prog) c

/-- A script has come to its end: every line taken and no fault, since a faulted state is never a
successful end of a run (R16). -/
def scriptEnded (prog : List ScriptLine) (c : ScriptState) : Bool :=
  prog.length ≤ c.line && c.machine.fault.isNone

/-- The sink's answer to the next offer under the script's policy. -/
def ScriptState.answer (c : ScriptState) : SinkAnswer :=
  match c.sink with
  | .acceptAll => .accept
  | .rejectAt k => if c.offers = k then .reject else .accept

/-- The engine takes a turn beside the script; an offer counts. -/
def scriptEngineTurn (c : ScriptState) : ScriptState :=
  scriptStep
    (fun c =>
      { c with machine := afterAction (.engine c.answer) c.machine,
               offers := if c.machine.phase = .txEmit then c.offers + 1 else c.offers }) c

/-- `start OP` (R73). -/
def scriptStart (i : Instr) : List ScriptLine := [.wr 0x000 (ctrlByte i)]

/-- `wait_idle` (R73), with label `l` and name `name`. -/
def scriptWaitIdle (l name : Nat) : List ScriptLine :=
  [.label l, .rd 0x001 name, .ifGoto name 0 true l]

/-- The writes of a payload to TX_BUF from index `i` on. An index past 1023, where R72 names no byte of
TX_BUF and R73 sets no bound, is taken modulo 1024: DESIGN CHOICE, log entry 11. -/
def scriptLoadBytes (i : Nat) : List Byte → List ScriptLine
  | [] => []
  | b :: bs => .wr (BitVec.ofNat 12 (txBufAddr (bufIndex i))) b :: scriptLoadBytes (i + 1) bs

/-- `load_tx V, C, [P0 .. Pn-1]` (R73), with n taken modulo 65536: DESIGN CHOICE, log entry 11. -/
def scriptLoadTx (f : Frame) : List ScriptLine :=
  let n : U16 := BitVec.ofNat 16 f.payload.length
  [.wr 0x008 f.version, .wr 0x009 f.command, .wr 0x00A (hiByte n), .wr 0x00B (loByte n)]
    ++ scriptLoadBytes 0 f.payload

end Sys2Proof.Machine
end

