-- ==== Sys2Proof/Tests/Slice0.lean ====
section
/-! SUPPORT. The model's own tests: ill-formed terms, decoding of written-out words, single steps whose
expected results are 95_test_vectors', and a witness of the hypotheses of each obligation. -/

namespace Sys2Proof.Tests

open Sys2Proof Sys2Proof.Machine

/-! ### Well-formedness -/

/-- A byte that selects DECODE is no illegal one (30_encoding R71). -/
theorem test_wf_refuses_legal_byte : (Instr.illegal 0x03).wf = false := by decide

theorem test_wf_accepts_illegal_byte : (Instr.illegal 0x0B).wf = true := by decide

/-- A payload of 1025 bytes is refused, one of 1024 is not (00_scope R7). -/
theorem test_wf_refuses_long_payload : Frame.wf ⟨0x03, 0x07, List.replicate 1025 0x00⟩ = false := by
  rw [Frame.wf, List.length_replicate]
  decide

theorem test_wf_accepts_longest_payload : Frame.wf ⟨0x03, 0x07, List.replicate 1024 0x00⟩ = true := by
  rw [Frame.wf, List.length_replicate]
  decide

/-- RX_SOURCE_CAPACITY = 0 is refused (00_scope R10). -/
theorem test_wf_refuses_zero_capacity : Params.wf ⟨false, .discard, some 0⟩ = false := by decide

/-- A memory out of order is not canonical. -/
theorem test_wf_refuses_unsorted_memory : ¬ Memory.wf [(0x801, 0x00), (0x800, 0x00)] := by decide

/-! ### Decoding of words written out bit by bit: RSV then OP (30_encoding R69-R71) -/

theorem test_decode_csumCompute : decode [0b00000_001#8] = .ok (.csumCompute, []) := rfl

theorem test_decode_csumValidate : decode [0b00000_010#8] = .ok (.csumValidate, []) := rfl

theorem test_decode_decode : decode [0b00000_011#8] = .ok (.decode, []) := rfl

theorem test_decode_encode : decode [0b00000_100#8] = .ok (.encode, []) := rfl

theorem test_decode_encodeEmpty : decode [0b00000_101#8] = .ok (.encodeEmpty, []) := rfl

/-- OP = 011 with RSV = 00001 is illegal, not a DECODE (40_control R76). -/
theorem test_decode_illegal_rsv : decode [0b00001_011#8] = .ok (.illegal 0x0B, []) := rfl

theorem test_decode_illegal_op : decode [0b00000_110#8] = .ok (.illegal 0x06, []) := rfl

theorem test_decode_no_byte : decode [] = .error .noByte := rfl

theorem test_table_word : decodeTableWord 8 0x05 = some .encodeEmpty := by decide

/-! ### Small states -/

/-- W10's payload: temperature-high = 300. -/
def tempPayload : List Byte := [0x66, 0x02, 0x00, 0x04, 0x00, 0x00, 0x01, 0x2C]

/-- W10's frame (V-CS-3). -/
def tempFrame : Frame := ⟨0x00, 0x06, tempPayload⟩

/-- The TX registers and TX_BUF hold W10's frame. -/
def loaded : State :=
  { State.reset with
    txCmd := 0x06
    txLenLo := 0x08
    mem := [(0x800, 0x66), (0x801, 0x02), (0x802, 0x00), (0x803, 0x04), (0x804, 0x00),
      (0x805, 0x00), (0x806, 0x01), (0x807, 0x2C)] }

/-- V-OP-9 and V-TX-10's shape: three bytes wanted, the third never written. -/
def partly : State :=
  { State.reset with txLenLo := 0x03, mem := [(0x800, 0x01), (0x801, 0x02)] }

/-- An operation at work in phase `p`. -/
def working (o : Operation) (p : Phase) (s : State) : State :=
  { s with status := statusAccepted, op := o, phase := p }

/-- A DECODE in phase `p` with `q` waiting. -/
def receiving (p : Phase) (q : List Byte) : State :=
  working .decode p { State.reset with rxq := q }

/-- A state with a fault. -/
def faulted : State := { State.reset with fault := some (.unwritten .rxVer) }

/-! ### Single steps, with the results of 95_test_vectors -/

/-- V-CS-3. -/
theorem test_checksum : frameChecksum ⟨false, .discard, none⟩ tempFrame = 0xA7 := by decide

/-- V-CS-3 with the sync bytes summed. -/
theorem test_checksum_sync : frameChecksum ⟨true, .discard, none⟩ tempFrame = 0xA6 := by decide

/-- V-OP-1. -/
theorem test_csumCompute :
    (engineTurn .wait (working .csumCompute .cs loaded)).calcCsum = some 0xA7 ∧
    (engineTurn .wait (working .csumCompute .cs loaded)).status.toByte = 0x10 := by decide

/-- V-OP-9. -/
theorem test_csumCompute_unwritten :
    (engineTurn .wait (working .csumCompute .cs partly)).fault = some (.unwritten (.txBuf 2)) := by
  decide

/-- V-OP-2 and V-OP-3. -/
theorem test_csumValidate :
    (engineTurn .wait (working .csumValidate .cs { loaded with csumExpect := 0xA7 })).status.toByte
      = 0x14 ∧
    (engineTurn .wait (working .csumValidate .cs { loaded with csumExpect := 0xA6 })).status.toByte
      = 0x10 := by decide

/-- V-OP-5. -/
theorem test_csumValidate_too_large :
    (engineTurn .wait (working .csumValidate .cs
      { State.reset with txLenHi := 0xFF, txLenLo := 0xFF })).status.toByte = 0x50 := by decide

/-- V-RX-9: OVERFLOW at len 1025 drains under DISCARD. -/
theorem test_decode_overflow :
    (engineTurn .wait { receiving .rxLenL [0x01] with rxLenHi := some 0x04 }).pend
      = ⟨.overflow, false, false⟩ ∧
    (engineTurn .wait { receiving .rxLenL [0x01] with rxLenHi := some 0x04 }).phase = .rxDrain := by
  decide

/-- V-RX-4: a second 0x55 stays a candidate (42_frame_decode R90). -/
theorem test_decode_overlap : (engineTurn .wait (receiving .rxSync1 [0x55])).phase = .rxSync1 := by
  decide

/-- V-TX-5: a reject at offer 3. -/
theorem test_encode_reject :
    (engineTurn .reject { working .encode .txEmit loaded with idx := 3, len := 8 }).status.toByte
      = 0x60 := by decide

/-- V-TX-10: the unwritten byte faults at idx 7 before its offer. -/
theorem test_encode_unwritten :
    (engineTurn .reject { working .encode .txEmit { partly with mem := [(0x800, 0x66)] } with
      idx := 7, len := 2 }).fault = some (.unwritten (.txBuf 1)) := by decide

/-- V-TX-11: ENCODE_EMPTY takes length 0, whatever TX_LEN holds. -/
theorem test_encodeEmpty_length : (engineTurn .wait (working .encodeEmpty .txStart partly)).len = 0 := by
  decide

/-- V-TX-1: the flush and the result. -/
theorem test_encodeEmpty_flush :
    (engineTurn .wait (working .encodeEmpty .txFlush State.reset)).txlog = [.flush] ∧
    (engineTurn .wait (working .encodeEmpty .txFlush State.reset)).status.toByte = 0x10 := by decide

/-- V-CT-2, by the word withFetchWord places. -/
theorem test_illegal : step (State.reset.withFetchWord 8 0x0B) =
    .next { State.reset with status := ⟨false, false, false, false, .illegalOp⟩ } := rfl

/-- V-CT-4: a CTRL write while BUSY = 1 is dropped, STATUS = 0x09. -/
theorem test_dropped : act (.hostWrite 0x000 0x04) (receiving .rxCmd []) =
    .next { receiving .rxCmd [] with status := ⟨true, false, false, true, .none⟩ } := rfl

theorem test_dropped_status : Status.toByte ⟨true, false, false, true, .none⟩ = 0x09 := by decide

/-- V-CT-12. -/
theorem test_read_unwritten : act (.hostRead 0x002) State.reset =
    .next { State.reset with fault := some (.unwritten .rxVer) } := rfl

/-- V-CT-15. -/
theorem test_write_read_last_byte :
    memRead 0xBFF (registerWrite 0xBFF 0x5A State.reset) = .ok 0x5A := rfl

/-- V-CT-11: a write to a read-only register has no effect, BUSY or not. -/
theorem test_write_read_only : registerWrite 0x002 0x12 (receiving .rxCmd []) = receiving .rxCmd [] :=
  rfl

/-- `load_tx 00, 02, []` expands to four writes (30_encoding R73). -/
theorem test_script_load : scriptLoadTx ⟨0x00, 0x02, []⟩ =
    [.wr 0x008 0x00, .wr 0x009 0x02, .wr 0x00A 0x00, .wr 0x00B 0x00] := by decide

/-- P1's first line: the script's CTRL write is accepted. -/
theorem test_script_start :
    (scriptLineStep (scriptStart .encodeEmpty) (.start State.reset)).machine.status.toByte = 0x01 := by
  decide

/-- V-CT-12 in a script: the read that faults binds no name, and the script takes no line after it. -/
theorem test_script_stops_at_fault :
    scriptLineStep [.rd 0x002 0, .label 0] (scriptLineStep [.rd 0x002 0, .label 0] (.start State.reset))
      = ⟨State.reset.raise (.unwritten .rxVer), 0, [], .acceptAll, 0⟩ := rfl

/-- 42_frame_decode R88: DECODE never faults, whatever RX_LEN_HI holds. -/
theorem test_decode_length_never_faults (b : Byte) :
    (engineTurn .wait (receiving .rxLenL [b])).rxLenLo = some b ∧
    (engineTurn .wait (receiving .rxLenL [b])).fault = none := by
  have h : engineTurn .wait (receiving .rxLenL [b]) =
      rxLenCheck { (receiving .rxLenL []).addAcc b with
        rxLenLo := some b, len := u16 (receivedLenHi none b) b } := rfl
  rw [h]
  exact rxLenCheck_elim (C := fun t => t.rxLenLo = some b ∧ t.fault = none) _ (fun _ => ⟨rfl, rfl⟩)
    (fun _ => ⟨rfl, rfl⟩) (fun _ _ => ⟨rfl, rfl⟩)

/-! ### Witnesses: for each obligation with hypotheses, values that meet them together; for one of
several clauses, values that meet each, at the ends of their ranges -/

/-- The first and last values of each illegal range, and the legal values next to them. -/
theorem witness_IllegalCtrlBytesAreTheRest :
    decodeCtrl 0x00 = .illegal 0x00 ∧ decodeCtrl 0x06 = .illegal 0x06 ∧
    decodeCtrl 0x07 = .illegal 0x07 ∧ decodeCtrl 0x08 = .illegal 0x08 ∧
    decodeCtrl 0xFF = .illegal 0xFF ∧ decodeCtrl 0x01 ≠ .illegal 0x01 ∧
    decodeCtrl 0x05 ≠ .illegal 0x05 ∧ State.reset.fault = none := by decide

theorem witness_CtrlEncodeAndDecodeAgree :
    Instr.encodeEmpty.wf = true ∧ (Instr.illegal 0x00).wf = true ∧ (Instr.illegal 0x06).wf = true ∧
    (Instr.illegal 0xFF).wf = true := by decide

theorem witness_StepRunsTheDecodedCtrlWord :
    (placeCtrlWrite 0x03 State.reset).fault = none ∧
    (placeCtrlWrite 0x03 State.reset).agenda = .hostWrite 0x000 0x03 :: [] := ⟨rfl, rfl⟩

theorem witness_StepIsTheChosenAgentsStep :
    State.reset.fault = none ∧ State.reset.agenda = [] ∧
    (placeCtrlWrite 0x03 State.reset).agenda = .hostWrite 0x000 0x03 :: [] := ⟨rfl, rfl, rfl⟩

theorem witness_FaultedStateHasNoStep : faulted.fault = some (.unwritten .rxVer) := rfl

theorem witness_EveryActionIsAnswered :
    State.reset.fault = none ∧ (receiving .rxCmd []).fault = none ∧
    (receiving .rxCmd []).status.busy = true := ⟨rfl, rfl, rfl⟩

/-- Two turns of V-TX-1's ENCODE_EMPTY. -/
theorem witness_ScheduledTurnsRunTheEngine :
    (engineRun [.accept, .accept]
      { working .encodeEmpty .txStart State.reset with agenda := [] }).fault = none := by decide

/-- An idle state without a fault: of AcceptStartsTheOperation, IllegalWriteReportsIllegalOp,
CsumComputeRuns, CsumValidateRuns and EncodeEmptySendsTheEmptyFrame. -/
theorem witness_AcceptStartsTheOperation :
    State.reset.fault = none ∧ State.reset.status.busy = false := ⟨rfl, rfl⟩

theorem witness_IllegalWriteReportsIllegalOp :
    loaded.fault = none ∧ loaded.status.busy = false := ⟨rfl, rfl⟩

/-- The ends of the operand ranges, and addresses next to them that are none. -/
theorem witness_WritesWhileBusyAreDropped :
    (receiving .rxCmd []).fault = none ∧ (receiving .rxCmd []).status.busy = true ∧
    isOperandAddr 0x008 = true ∧ isOperandAddr 0x00C = true ∧ isOperandAddr 0x800 = true ∧
    isOperandAddr 0xBFF = true ∧ isOperandAddr 0x007 = false ∧ isOperandAddr 0x00D = false ∧
    isOperandAddr 0x7FF = false ∧ isOperandAddr 0xC00 = false := by decide

theorem witness_MemReadFollowsTheMap :
    State.reset.fault = none ∧ isReservedAddr 0x00C = false ∧ isReservedAddr 0x00D = true ∧
    isReservedAddr 0x3FF = true ∧ isReservedAddr 0x400 = false ∧ isReservedAddr 0xBFF = false ∧
    isReservedAddr 0xC00 = true ∧ isReservedAddr 0xFFF = true := by decide

theorem witness_MemWriteFollowsTheMap :
    loaded.fault = none ∧ loaded.status.busy = false ∧
    (receiving .rxCmd []).fault = none ∧ (receiving .rxCmd []).status.busy = true ∧
    isOperandAddr 0xBFF = true ∧ isOperandAddr 0x007 = false ∧ isOperandAddr 0xC00 = false := by
  decide

theorem witness_ReservedAddressesReadZeroAndIgnoreWrites :
    State.reset.fault = none ∧ isReservedAddr 0x00D = true ∧ isReservedAddr 0xFFF = true := by decide

theorem witness_HostReadsTheByteItWrote :
    State.reset.fault = none ∧ State.reset.status.busy = false ∧ isOperandAddr 0x008 = true ∧
    isOperandAddr 0xBFF = true := by decide

/-- No capacity; capacity 1 with no byte waiting, and with one. -/
theorem witness_ArrivalsAppendOrAreLost :
    State.reset.params.rxSourceCapacity = none ∧
    (State.launch ⟨false, .discard, some 1⟩ [] []).params.rxSourceCapacity = some 1 ∧
    (State.launch ⟨false, .discard, some 1⟩ [] []).rxq.length < 1 ∧
    1 ≤ (State.launch ⟨false, .discard, some 1⟩ [0x55] []).rxq.length := by decide

/-- The engine takes a byte, holds without one, and the source appends one. -/
theorem witness_OnlyTheEngineTakesBytesFromTheHead :
    act (.engine .wait) (receiving .rxHunt [0x13]) = .next (receiving .rxHunt []) ∧
    isEngineAction (.engine .wait) = true ∧
    act (.arrive 0x13) (receiving .rxHunt []) = .next (receiving .rxHunt [0x13]) ∧
    isEngineAction (.arrive 0x13) = false := ⟨rfl, rfl, rfl, rfl⟩

theorem witness_TransmitLogIsAppendOnlyAndUnread :
    (working .encode .txFlush loaded).fault = none ∧ isEngineAction .reset = false := ⟨rfl, rfl⟩

/-- A permutation (V-CS-8), a changed byte of each kind (V-CS-7), and lengths 0 and 1023. -/
theorem witness_ChecksumLaws :
    ([0x00, 0x06, 0x00, 0x02] ++ [0x01, 0x2C] : List Byte).Perm
      ([0x00, 0x06, 0x00, 0x02] ++ [0x2C, 0x01]) ∧
    (0x03 : Byte) ≠ 0x00 ∧ (0x01 : Byte) ≠ hiByte 0x0008 ∧ (0x09 : Byte) ≠ loByte 0x0008 ∧
    0 < tempPayload.length ∧ tempPayload[0]? ≠ some 0x67 ∧
    (0 : U16).toNat < 1024 ∧ (0x03FF : U16).toNat < 1024 ∧ loByte 0x03FE ≠ 0xFF := by decide

/-- A legal length with its bytes written (V-OP-1), none wanted (V-OP-6), one over the bound (V-OP-4),
and the first unwritten byte (V-OP-9). -/
theorem witness_CsumComputeRuns :
    loaded.fault = none ∧ loaded.status.busy = false ∧ loaded.txLen.toNat ≤ 1024 ∧
    Memory.readRun loaded.mem 0x800 loaded.txLen.toNat = .ok tempPayload ∧
    State.reset.txLen.toNat = 0 ∧
    1024 < ({ loaded with txLenHi := 0x04, txLenLo := 0x01 } : State).txLen.toNat ∧
    ({ loaded with txLenHi := 0x04, txLenLo := 0x00 } : State).txLen.toNat ≤ 1024 ∧
    partly.fault = none ∧ partly.status.busy = false ∧ (2 : BufIndex).toNat < partly.txLen.toNat ∧
    Memory.read partly.mem (0x800 + (2 : BufIndex).toNat) = none ∧
    Memory.read partly.mem 0x800 ≠ none ∧ Memory.read partly.mem 0x801 ≠ none :=
  ⟨rfl, rfl, by decide, rfl, rfl, by decide, by decide, rfl, rfl, by decide, rfl, by decide, by decide⟩

theorem witness_CsumValidateRuns :
    loaded.fault = none ∧ loaded.status.busy = false ∧ loaded.txLen.toNat ≤ 1024 ∧
    Memory.readRun loaded.mem 0x800 loaded.txLen.toNat = .ok tempPayload ∧
    1024 < ({ loaded with txLenHi := 0x04, txLenLo := 0x01 } : State).txLen.toNat ∧
    (∀ j : BufIndex, j.toNat < (2 : BufIndex).toNat →
      Memory.read partly.mem (0x800 + j.toNat) ≠ none) := by
  refine ⟨rfl, rfl, by decide, rfl, by decide, fun j hj => ?_⟩
  have h : j.toNat = 0 ∨ j.toNat = 1 := by
    have : j.toNat < 2 := hj
    omega
  rcases h with h | h <;> rw [h] <;> decide

/-- A frame of no byte and one of a longest payload. -/
theorem witness_FrameBytesFollowTheLayout :
    Frame.wf ⟨0x03, 0x00, []⟩ = true ∧ Frame.wf ⟨0x03, 0x07, List.replicate 1024 0x00⟩ = true :=
  ⟨by decide, test_wf_accepts_longest_payload⟩

theorem witness_SearchStepsFindTheMarker :
    (receiving .rxHunt []).fault = none ∧ (receiving .rxHunt []).phase = .rxHunt ∧
    (receiving .rxHunt []).rxq = [] ∧ (receiving .rxSync1 []).phase = .rxSync1 ∧
    (receiving .rxHunt [0x55]).rxq = 0x55 :: [] ∧ (receiving .rxSync1 [0xAA]).rxq = 0xAA :: [] ∧
    (0x55 : Byte) ≠ 0xAA ∧ (0x13 : Byte) ≠ 0xAA ∧ (receiving .rxSync1 [0x55]).rxq = 0x55 :: [] :=
  ⟨rfl, rfl, rfl, rfl, rfl, rfl, by decide, by decide, rfl⟩

theorem witness_ReceivePhasesHoldWithoutBytes :
    (receiving .rxVer []).fault = none ∧ (receiving .rxVer []).rxq = [] ∧
    (receiving .rxVer []).phase = .rxVer ∧ (receiving .rxCsum []).phase = .rxCsum := ⟨rfl, rfl, rfl, rfl⟩

theorem witness_HeaderBytesAreStored :
    (receiving .rxVer [0x03]).fault = none ∧ (receiving .rxVer [0x03]).rxq = 0x03 :: [] ∧
    (receiving .rxVer [0x03]).phase = .rxVer ∧ (receiving .rxCmd [0x03]).phase = .rxCmd ∧
    (receiving .rxLenH [0x03]).phase = .rxLenH := ⟨rfl, rfl, rfl, rfl, rfl⟩

/-- Lengths 0, 1, 1024 and 1025, where the clauses meet. -/
theorem witness_LengthByteDecides :
    ({ receiving .rxLenL [0x01] with rxLenHi := some 0x04 } : State).fault = none ∧
    ({ receiving .rxLenL [0x01] with rxLenHi := some 0x04 } : State).phase = .rxLenL ∧
    ({ receiving .rxLenL [0x01] with rxLenHi := some 0x04 } : State).rxLenHi = some 0x04 ∧
    ({ receiving .rxLenL [0x01] with rxLenHi := some 0x04 } : State).rxq = 0x01 :: [] ∧
    1024 < (0x04 : Byte).toNat * 256 + (0x01 : Byte).toNat ∧
    (0x04 : Byte).toNat * 256 + (0x00 : Byte).toNat ≤ 1024 ∧
    0 < (0x00 : Byte).toNat * 256 + (0x01 : Byte).toNat ∧
    (0x00 : Byte).toNat * 256 + (0x00 : Byte).toNat = 0 :=
  ⟨rfl, rfl, rfl, rfl, by decide, by decide, by decide, by decide⟩

/-- The last payload byte of a longest frame, the first of one of two bytes. -/
theorem witness_PayloadByteIsStored :
    ({ receiving .rxPay [0x55] with idx := 1023, len := 1024 } : State).fault = none ∧
    ({ receiving .rxPay [0x55] with idx := 1023, len := 1024 } : State).phase = .rxPay ∧
    ({ receiving .rxPay [0x55] with idx := 1023, len := 1024 } : State).rxq = 0x55 :: [] ∧
    (1023 : FrameIndex).toNat < (1024 : U16).toNat ∧ (1024 : U16).toNat ≤ 1024 ∧
    (1023 : FrameIndex).toNat + 1 = (1024 : U16).toNat ∧
    (0 : FrameIndex).toNat + 1 ≠ (2 : U16).toNat :=
  ⟨rfl, rfl, rfl, by decide, by decide, by decide, by decide⟩

/-- A DECODE of the peripheral heartbeat (V-RX-1, V-RX-8) at its checksum byte `k`. -/
def heartbeat (p : Phase) (k : Byte) : State :=
  { receiving p [k] with
    rxVer := some 0x03
    rxCmd := some 0x00
    rxLenHi := some 0x00
    rxLenLo := some 0x00
    acc := 0x03 }

theorem heartbeat_receiveInv (k : Byte) : ReceiveInv (heartbeat .rxCsum k) := by
  have hacc : (0x03 : Byte) = checksum ⟨false, .discard, none⟩ 0x03 0x00 0 [] := by decide
  have hhi : some (0x00 : Byte) = some (hiByte 0) := by decide
  have hlo : some (0x00 : Byte) = some (loByte 0) := by decide
  refine ⟨⟨0x03, 0x00, [], rfl, rfl, hhi, hlo, rfl, hacc⟩, fun h => ?_⟩
  rcases h with h | h
  · cases h
  · cases h.1

theorem witness_ChecksumByteDecides :
    (heartbeat .rxCsum 0x03).fault = none ∧ (heartbeat .rxCsum 0x03).phase = .rxCsum ∧
    (heartbeat .rxCsum 0x03).rxq = 0x03 :: [] ∧ (0x03 : Byte) = (heartbeat .rxCsum 0x03).acc ∧
    (0x04 : Byte) ≠ (heartbeat .rxCsum 0x04).acc ∧ ReceiveInv (heartbeat .rxCsum 0x03) :=
  ⟨rfl, rfl, rfl, rfl, by decide, heartbeat_receiveInv _⟩

theorem witness_TerminalOutcomesDrainOrPublish :
    State.reset.params.remainderPolicy = .discard ∧
    (State.launch ⟨false, .retain, none⟩ [] []).params.remainderPolicy = .retain ∧
    (receiving .rxDrain []).fault = none ∧ (receiving .rxDrain []).phase = .rxDrain ∧
    (receiving .rxDrain []).rxq = [] ∧ (receiving .rxDrain [0x13]).rxq = 0x13 :: [] :=
  ⟨rfl, rfl, rfl, rfl, rfl, rfl⟩

/-- V-RX-4's garbage `13 55` before a heartbeat, and a byte after it, under both policies. -/
theorem witness_DecodeFindsTheFrameAfterGarbage :
    ¬ [0x55, 0xAA] <:+: ([0x13, 0x55] : List Byte) ∧ Frame.wf ⟨0x03, 0x00, []⟩ = true ∧
    ([0x13, 0x55, 0x55, 0xAA, 0x03, 0x00, 0x00, 0x00, 0x03, 0x77] : List Byte)
      = [0x13, 0x55] ++ frameBytes State.reset.params ⟨0x03, 0x00, []⟩ ++ [0x77] ∧
    (List.replicate 11 SinkAnswer.wait).length = [0x13, 0x55].length + 7 + 0 + ([0x77].length + 1) ∧
    (List.replicate 9 SinkAnswer.wait).length = [0x13, 0x55].length + 7 + 0 + 0 := by decide

/-- V-RX-8: the heartbeat with a wrong checksum byte. -/
theorem witness_DecodeReportsChecksumMismatch :
    (0x04 : Byte) ≠ frameChecksum State.reset.params ⟨0x03, 0x00, []⟩ ∧
    ([0x55, 0xAA, 0x03, 0x00, 0x00, 0x00, 0x04] : List Byte)
      = [] ++ wireBytes ⟨0x03, 0x00, []⟩ 0x04 ++ [] ∧
    ¬ [0x55, 0xAA] <:+: ([] : List Byte) ∧
    (List.replicate 8 SinkAnswer.wait).length = 0 + 7 + 0 + (0 + 1) := by decide

/-- V-RX-9 and V-RX-10: the smallest and the largest length over the bound. -/
theorem witness_DecodeReportsOverflow :
    1024 < (0x04 : Byte).toNat * 256 + (0x01 : Byte).toNat ∧
    1024 < (0xFF : Byte).toNat * 256 + (0xFF : Byte).toNat ∧
    ([0x55, 0xAA, 0x00, 0x00, 0xFF, 0xFF, 0x12, 0x34] : List Byte)
      = [] ++ [0x55, 0xAA, 0x00, 0x00, 0xFF, 0xFF] ++ [0x12, 0x34] ∧
    (List.replicate 9 SinkAnswer.wait).length = 0 + 6 + (2 + 1) := by decide

/-- V-RX-5, V-RX-6 and V-RX-7. -/
theorem witness_DecodeReportsNoData :
    ¬ [0x55, 0xAA] <:+: State.reset.rxq ∧ ¬ [0x55, 0xAA] <:+: ([0x13, 0x27, 0xAA] : List Byte) ∧
    ¬ [0x55, 0xAA] <:+: ([0x13, 0x55] : List Byte) ∧
    (List.replicate 1 SinkAnswer.wait).length = State.reset.rxq.length + 1 := by decide

/-- TX_LEN 1025, 1024 and the flush. -/
theorem witness_TransmissionStartsAndFlushes :
    (working .encode .txStart loaded).fault = none ∧
    (working .encode .txStart loaded).phase = .txStart ∧
    (working .encode .txStart loaded).op ≠ .encodeEmpty ∧
    1024 < (working .encode .txStart { loaded with txLenHi := 0x04, txLenLo := 0x01 }).txLen.toNat ∧
    (working .encode .txStart { loaded with txLenHi := 0x04, txLenLo := 0x00 }).txLen.toNat ≤ 1024 ∧
    (working .encodeEmpty .txStart loaded).op = .encodeEmpty ∧
    (working .encode .txFlush loaded).phase = .txFlush := by decide

/-- The offers of W10's frame at idx 0 and idx 6, its checksum at idx 14, and the unwritten byte of
V-TX-10 at idx 7. -/
theorem witness_SinkAnswersDecideTheOffer :
    (working .encode .txEmit loaded).fault = none ∧ (working .encode .txEmit loaded).phase = .txEmit ∧
    (8 : U16).toNat ≤ 1024 ∧ (0 : FrameIndex).toNat ≤ 6 + (8 : U16).toNat ∧
    (14 : FrameIndex).toNat = 6 + (8 : U16).toNat ∧
    Memory.read loaded.mem (0x800 + ((6 : FrameIndex).toNat - 6)) = some 0x66 ∧
    (7 : FrameIndex).toNat = 6 + (1 : BufIndex).toNat ∧ (1 : BufIndex).toNat < (2 : U16).toNat ∧
    Memory.read [(0x800, 0x66)] (0x800 + (1 : BufIndex).toNat) = none := by decide

theorem loaded_holds : TxHolds loaded tempFrame := ⟨by decide, rfl, rfl, by decide, rfl⟩

theorem witness_EncodeSendsTheFrame :
    loaded.fault = none ∧ loaded.status.busy = false ∧ TxHolds loaded tempFrame :=
  ⟨rfl, rfl, loaded_holds⟩

theorem witness_EncodeEmptySendsTheEmptyFrame :
    partly.fault = none ∧ partly.status.busy = false := ⟨rfl, rfl⟩

/-- V-TX-5's and V-TX-7's rejects: the first and last positions for each operation. -/
theorem witness_SinkRejectCutsTheFrame :
    loaded.fault = none ∧ loaded.status.busy = false ∧ TxHolds loaded tempFrame ∧
    14 ≤ 6 + tempFrame.payload.length ∧
    (⟨0x00, 0x00, []⟩ : Frame) = ⟨State.reset.txVer, State.reset.txCmd, []⟩ ∧
    6 ≤ 6 + ([] : List Byte).length := ⟨rfl, rfl, loaded_holds, by decide, rfl, by decide⟩

theorem witness_EncodeFaultsAtItsFirstUnwrittenByte :
    partly.fault = none ∧ partly.status.busy = false ∧ partly.txLen.toNat ≤ 1024 ∧
    (2 : BufIndex).toNat < partly.txLen.toNat ∧
    Memory.readRun partly.mem 0x800 (2 : BufIndex).toNat = .ok [0x01, 0x02] ∧
    Memory.read partly.mem (0x800 + (2 : BufIndex).toNat) = none :=
  ⟨rfl, rfl, by decide, by decide, rfl, rfl⟩

theorem witness_TooLargeChangesOnlyStatus :
    ({ loaded with txLenHi := 0x04, txLenLo := 0x01 } : State).fault = none ∧
    ({ loaded with txLenHi := 0x04, txLenLo := 0x01 } : State).status.busy = false ∧
    1024 < ({ loaded with txLenHi := 0x04, txLenLo := 0x01 } : State).txLen.toNat :=
  ⟨rfl, rfl, by decide⟩

theorem witness_DecodeOfEncodeIsTheFrame :
    loaded.fault = none ∧ loaded.status.busy = false ∧ TxHolds loaded tempFrame ∧
    State.reset.fault = none ∧ State.reset.status.busy = false ∧
    (State.launch ⟨false, .retain, none⟩ [] []).params.csumIncludesSync
      = loaded.params.csumIncludesSync ∧
    State.reset.params.csumIncludesSync = loaded.params.csumIncludesSync :=
  ⟨rfl, rfl, loaded_holds, rfl, rfl, rfl, rfl⟩

/-- V-RX-17: the heartbeat of a sender that sums the sync bytes. -/
theorem witness_DifferentSyncSettingsMismatch :
    Frame.wf ⟨0x00, 0x00, []⟩ = true ∧
    State.reset.params.csumIncludesSync ≠ (⟨true, .discard, none⟩ : Params).csumIncludesSync ∧
    (State.launch ⟨false, .discard, none⟩ [0x55, 0xAA, 0x00, 0x00, 0x00, 0x00, 0xFF] []).rxq
      = frameBytes ⟨true, .discard, none⟩ ⟨0x00, 0x00, []⟩ := by decide

theorem witness_ChecksumTurnsLeaveTheRest : (working .csumCompute .cs loaded).phase = .cs := rfl

theorem witness_ReceiveTurnsLeaveTheRest :
    phaseFits .decode .rxHunt = true ∧ phaseFits .decode .rxPay = true ∧
    phaseFits .decode .rxDrain = true := by decide

theorem witness_TransmitTurnsLeaveTheRest :
    phaseFits .encode .txStart = true ∧ phaseFits .encode .txEmit = true ∧
    phaseFits .encode .txFlush = true := by decide

/-- A DECODE about to take its checksum byte, the engine's turn scheduled. -/
def heartbeatTurn : State := { heartbeat .rxCsum 0x03 with agenda := [.engine .wait] }

theorem heartbeatTurn_steps :
    step heartbeatTurn = .next (engineTurn .wait (heartbeat .rxCsum 0x03)) := rfl

theorem witness_OperandsHoldWhileBusy :
    heartbeatTurn.status.busy = true ∧ heartbeatTurn.nextAction ≠ .reset ∧
    step heartbeatTurn = .next (engineTurn .wait (heartbeat .rxCsum 0x03)) :=
  ⟨rfl, by decide, heartbeatTurn_steps⟩

theorem witness_ParametersNeverChange :
    step heartbeatTurn = .next (engineTurn .wait (heartbeat .rxCsum 0x03)) := heartbeatTurn_steps

theorem witness_StepKeepsTheMemoryCanonical :
    Memory.wf ({ loaded with agenda := [.hostWrite 0xBFF 0x5A] } : State).mem ∧
    step { loaded with agenda := [.hostWrite 0xBFF 0x5A] } =
      .next (registerWrite 0xBFF 0x5A loaded) := ⟨by decide, rfl⟩

theorem witness_StepKeepsTheControlInvariant :
    ControlInv heartbeatTurn ∧
    step heartbeatTurn = .next (engineTurn .wait (heartbeat .rxCsum 0x03)) :=
  ⟨by decide, heartbeatTurn_steps⟩

theorem witness_StepKeepsTheReceiveInvariant :
    ControlInv heartbeatTurn ∧ ReceiveInv heartbeatTurn ∧
    step heartbeatTurn = .next (engineTurn .wait (heartbeat .rxCsum 0x03)) :=
  ⟨by decide, heartbeat_receiveInv 0x03, heartbeatTurn_steps⟩

/-- ENCODE of W10's frame about to offer its version byte. -/
def emitting : State :=
  { working .encode .txEmit loaded with idx := 2, len := 8, agenda := [.engine .accept] }

theorem emitting_transmitInv : TransmitInv emitting := fun _ => ⟨by decide, [], rfl, by decide⟩

theorem witness_StepKeepsTheTransmitInvariant :
    ControlInv emitting ∧ TransmitInv emitting ∧
    step emitting = .next (engineTurn .accept { emitting with agenda := [] }) :=
  ⟨by decide, emitting_transmitInv, rfl⟩

theorem witness_OfferedByteIsTheFramesByte :
    emitting.phase = .txEmit ∧ ControlInv emitting ∧ TransmitInv emitting ∧
    tempFrame.version = emitting.txVer ∧ tempFrame.command = emitting.txCmd ∧
    tempFrame.payload.length = emitting.len.toNat ∧
    Memory.readRun emitting.mem 0x800 emitting.len.toNat = .ok tempFrame.payload ∧
    emitting.offered = .ok 0x00 :=
  ⟨rfl, by decide, emitting_transmitInv, rfl, rfl, rfl, rfl, rfl⟩

/-- A host read of an unwritten register, and the one engine turn of V-OP-9. -/
theorem witness_OnlyUnwrittenStorageFaults :
    ControlInv State.reset ∧ TransmitInv State.reset ∧ State.reset.fault = none ∧
    act (.hostRead 0x002) State.reset = .next (State.reset.raise (.unwritten .rxVer)) ∧
    (State.reset.raise (.unwritten .rxVer)).fault = some (.unwritten .rxVer) ∧
    ControlInv (working .csumCompute .cs partly) ∧
    TransmitInv (working .csumCompute .cs partly) ∧
    act (.engine .wait) (working .csumCompute .cs partly) =
      .next ((working .csumCompute .cs partly).raise (.unwritten (.txBuf 2))) := by
  have ht : ∀ s : State, s.phase ≠ .txEmit → TransmitInv s := fun s h1 h2 => absurd h2 h1
  exact ⟨by decide, ht _ (by decide), rfl, rfl, rfl, by decide, ht _ (by decide), rfl⟩

end Sys2Proof.Tests
end

section
/-! SUPPORT. What a faulted state and a free draw do, and what no agent's action touches: the rules of
00_scope, with the three obligations they settle. -/

namespace Sys2Proof.Machine

open Sys2Proof

/-! ### Steps of a faulted state (00_scope R16, 10_state R39) and free draws (log entry 4) -/

theorem step_faulted {s : State} {f : Fault} (hf : s.fault = some f) : step s = .fault f := by
  simp [step, stepAgents, hf]

theorem ctrlWrite_faulted (go : State → State) {s : State} {f : Fault} (hf : s.fault = some f) :
    ctrlWrite go s = .fault f := by
  simp [ctrlWrite, hf]

theorem exec_faulted (i : Instr) {s : State} {f : Fault} (hf : s.fault = some f) :
    exec i s = .fault f := by
  cases i <;> exact ctrlWrite_faulted _ hf

theorem step_drawn {s : State} (hf : s.fault = none) (h : s.agenda = []) :
    step s = act (Config.freeAction s.turn) { s with turn := s.turn + 1 } := by
  simp [step, stepAgents, State.nextAction, State.chosen, hf, h]

/-! ### An engine turn leaves what belongs to no operation -/

theorem terminal_sameRest (c : Result) (v m : Bool) (s : State) : SameRest s (terminal c v m s) := by
  rcases terminal_cases c v m s with ⟨-, h⟩ | ⟨-, h⟩ <;>
    (rw [h]; exact ⟨rfl, rfl, rfl, rfl⟩)

theorem txAccepted_sameRest (b : Byte) (s : State) : SameRest s (txAccepted b s) := by
  unfold txAccepted
  dsimp only
  split <;> split <;> exact ⟨rfl, rfl, rfl, rfl⟩

theorem TurnEffect.sameRest {s t : State} (h : TurnEffect s t) : SameRest s t := by
  cases h with
  | overflow => exact terminal_sameRest ..
  | csumOk => exact terminal_sameRest ..
  | csumWrong => exact terminal_sameRest ..
  | txAccept b => exact txAccepted_sameRest b s
  | _ => exact ⟨rfl, rfl, rfl, rfl⟩

theorem engineTurn_sameRest (a : SinkAnswer) (s : State) : SameRest s (engineTurn a s) :=
  (engineTurn_effect a s).sameRest

/-! ### No action changes the parameters (00_scope R7-R10) -/

theorem exec_params {i : Instr} {s t : State} (h : exec i s = .next t) : t.params = s.params := by
  obtain ⟨-, ⟨-, rfl⟩ | ⟨-, ⟨o, -, rfl⟩ | rfl⟩⟩ := exec_cases h <;> rfl

@[simp] theorem hostRead_params (a : Addr) (s : State) : (hostRead a s).params = s.params := by
  rcases hostRead_cases a s with ⟨v, -, h⟩ | ⟨f, -, h⟩
  · rw [h]
  · rw [h, State.raise_params]

@[simp] theorem rxArrive_params (b : Byte) (s : State) : (rxArrive b s).params = s.params := by
  rcases rxArrive_cases b s with h | h <;> rw [h]

theorem OperandWritten.params {s t : State} (h : OperandWritten s t) : t.params = s.params := by
  obtain ⟨v, rfl⟩ | ⟨v, rfl⟩ | ⟨v, rfl⟩ | ⟨v, rfl⟩ | ⟨v, rfl⟩ | ⟨n, v, -, -, rfl⟩ := h <;> rfl

@[simp] theorem registerWrite_params (a : Addr) (v : Byte) (s : State) :
    (registerWrite a v s).params = s.params := by
  rcases registerWrite_cases a v s with h | ⟨-, h⟩ | ⟨-, h⟩
  · rw [h]
  · rw [h, dropWrite_params]
  · exact h.params

@[simp] theorem engineTurn_params (a : SinkAnswer) (s : State) :
    (engineTurn a s).params = s.params := by
  obtain ⟨hp, -, -, -⟩ := engineTurn_sameRest a s
  exact hp

theorem act_params {a : Action} {s t : State} (h : act a s = .next t) : t.params = s.params := by
  obtain ⟨addr, -, rfl⟩ | ⟨v, -, hx⟩ | ⟨addr, v, -, -, rfl⟩ | ⟨-, rfl⟩ | ⟨b, -, rfl⟩ | ⟨ans, -, rfl⟩ :=
    act_cases h
  · exact hostRead_params addr s
  · exact exec_params hx
  · exact registerWrite_params addr v s
  · exact resetFce_params s
  · exact rxArrive_params b s
  · exact engineTurn_params ans s

/-! ### The obligations -/

/-- Settles O53: the action taken keeps the parameters, and so does the choice of it. -/
theorem parametersNeverChange : Obligations.ParametersNeverChange := by
  intro s t h
  calc t.params = s.chosen.params := act_params (step_next.1 h).2
    _ = s.params := chosen_params s

/-- Settles O5, by the two equations of `step` without a fault. -/
theorem stepIsTheChosenAgentsStep : Obligations.StepIsTheChosenAgentsStep :=
  fun _ hf => ⟨fun _ _ h => step_scheduled hf h, fun h => step_drawn hf h⟩

/-- Settles O6: each agent's answer to a mark, one lemma each; the reset state bears none. -/
theorem faultedStateHasNoStep : Obligations.FaultedStateHasNoStep := by
  refine ⟨fun s f hf => ⟨step_faulted hf, fun i => exec_faulted i hf, fun a => ?_, ?_⟩, rfl⟩
  · exact engineTurn_faulted (by simp [hf])
  · rw [resetFce_fault, hf]

end Sys2Proof.Machine
end

section
/-! SUPPORT. The buffers' memory stays canonical under every step (10_state R31, R32), with the obligation it
settles. -/

namespace Sys2Proof.Machine

open Sys2Proof

@[simp] theorem terminal_mem (c : Result) (v m : Bool) (s : State) :
    (terminal c v m s).mem = s.mem := by
  rcases terminal_cases c v m s with ⟨-, h⟩ | ⟨-, h⟩ <;> rw [h]
  exact complete_mem c v m s

@[simp] theorem txAccepted_mem (b : Byte) (s : State) : (txAccepted b s).mem = s.mem := by
  unfold txAccepted
  dsimp only
  split <;> split <;> rfl

theorem exec_mem {i : Instr} {s t : State} (h : exec i s = .next t) : t.mem = s.mem := by
  obtain ⟨-, ⟨-, rfl⟩ | ⟨-, ⟨o, -, rfl⟩ | rfl⟩⟩ := exec_cases h <;> rfl

@[simp] theorem hostRead_mem (a : Addr) (s : State) : (hostRead a s).mem = s.mem := by
  rcases hostRead_cases a s with ⟨v, -, h⟩ | ⟨f, -, h⟩
  · rw [h]
  · rw [h, State.raise_mem]

@[simp] theorem rxArrive_mem (b : Byte) (s : State) : (rxArrive b s).mem = s.mem := by
  rcases rxArrive_cases b s with h | h <;> rw [h]

theorem wf_write_rxBuf {m : Memory} (i : BufIndex) (b : Byte) (h : Memory.wf m) :
    Memory.wf (Memory.write m (rxBufAddr i) b) :=
  Memory.wf_write _ b h (Nat.le_add_right 0x400 _) (Nat.lt_trans (rxBufAddr_lt i) (by decide))

/-- An engine turn writes memory only where it stores a payload byte (42_frame_decode R97). -/
theorem TurnEffect.wf_mem {s t : State} (h : TurnEffect s t) (hm : Memory.wf s.mem) :
    Memory.wf t.mem := by
  cases h with
  | payload => exact wf_write_rxBuf _ _ hm
  | payloadEnd => exact wf_write_rxBuf _ _ hm
  | overflow => rwa [terminal_mem]
  | csumOk => rwa [terminal_mem]
  | csumWrong => rwa [terminal_mem]
  | txAccept => rwa [txAccepted_mem]
  | _ => exact hm

theorem OperandWritten.wf_mem {s t : State} (h : OperandWritten s t) (hm : Memory.wf s.mem) :
    Memory.wf t.mem := by
  obtain ⟨v, rfl⟩ | ⟨v, rfl⟩ | ⟨v, rfl⟩ | ⟨v, rfl⟩ | ⟨v, rfl⟩ | ⟨n, v, lo, hi, rfl⟩ := h
  case inr.inr.inr.inr.inr => exact Memory.wf_write n v hm (Nat.le_trans (by decide) lo) hi
  all_goals exact hm

theorem registerWrite_wf_mem (a : Addr) (v : Byte) {s : State} (hm : Memory.wf s.mem) :
    Memory.wf (registerWrite a v s).mem := by
  rcases registerWrite_cases a v s with h | ⟨-, h⟩ | ⟨-, h⟩
  · rwa [h]
  · rwa [h, dropWrite_mem]
  · exact h.wf_mem hm

theorem act_wf_mem {a : Action} {s t : State} (h : act a s = .next t) (hm : Memory.wf s.mem) :
    Memory.wf t.mem := by
  obtain ⟨addr, -, rfl⟩ | ⟨v, -, hx⟩ | ⟨addr, v, -, -, rfl⟩ | ⟨-, rfl⟩ | ⟨b, -, rfl⟩ | ⟨ans, -, rfl⟩ :=
    act_cases h
  · rwa [hostRead_mem]
  · rwa [exec_mem hx]
  · exact registerWrite_wf_mem addr v hm
  · exact Memory.wf_nil
  · rwa [rxArrive_mem]
  · exact (engineTurn_effect ans s).wf_mem hm

/-- Settles O55: the action taken keeps the form, and the choice of it writes no memory. -/
theorem stepKeepsTheMemoryCanonical : Obligations.StepKeepsTheMemoryCanonical := by
  intro s t hm h
  exact act_wf_mem (step_next.1 h).2 (by rwa [chosen_mem])

end Sys2Proof.Machine
end

section
/-! SUPPORT. FRAME_VALID's meaning and the receive path's running sum under every step (10_state R25, R35;
41_checksum R83, R85), with the obligation they settle. -/

namespace Sys2Proof.Machine

open Sys2Proof

/-! ### A valid frame in the RX registers (10_state R25) -/

/-- The RX registers and RX_BUF hold a frame whose checksum is RX_CSUM = CALC_CSUM: what ReceiveInv
promises of a published frame. -/
def HoldsValidFrame (s : State) : Prop :=
  ∃ f k, RxHolds s f k ∧ s.calcCsum = some k ∧ frameIsValid s.params f k = true

/-- FRAME_VALID is 1, or a drain is about to publish it (R38). -/
def PublishesFrame (s : State) : Prop :=
  s.status.frameValid = true ∨ (s.phase = .rxDrain ∧ s.pend.valid = true)

theorem receiveInv_iff {s : State} :
    ReceiveInv s ↔ RxSum s ∧ (PublishesFrame s → HoldsValidFrame s) := Iff.rfl

/-- Where nothing is published, the sum alone is the invariant. -/
theorem RxSum.receiveInv {s : State} (h : RxSum s) (hv : s.status.frameValid = false)
    (hp : s.phase ≠ .rxDrain) : ReceiveInv s := by
  refine ⟨h, ?_⟩
  rintro (h1 | ⟨h1, -⟩)
  · simp [hv] at h1
  · exact absurd h1 hp

/-- FRAME_VALID is 0 while an operation is in progress (40_control R77, R80). -/
theorem frameValid_of_phase {s : State} (hc : FlagInv s) (hp : s.phase ≠ .idle) :
    s.status.frameValid = false := by
  obtain ⟨hbusy, -, hclear, -, -⟩ := hc
  obtain ⟨-, hv, -⟩ := hclear (hbusy.2 hp)
  exact hv

/-- BUSY = 0 leaves no operation's phase (10_state R33). -/
theorem phase_of_not_busy {s : State} (hc : FlagInv s) (hb : s.status.busy = false) :
    s.phase = .idle := by
  obtain ⟨hbusy, -⟩ := hc
  by_contra hp
  simpa [hb] using hbusy.2 hp

theorem complete_receiveInv (c : Result) {v : Bool} (m : Bool) {s : State}
    (h : v = true → HoldsValidFrame s) : ReceiveInv (complete c v m s) := by
  refine ⟨trivial, ?_⟩
  rintro (h1 | ⟨h1, -⟩)
  · exact h h1
  · cases h1

/-- A terminal outcome publishes its frame at once or after the drain (42_frame_decode R100). -/
theorem terminal_receiveInv (c : Result) {v : Bool} (m : Bool) {s : State}
    (hv : s.status.frameValid = false) (h : v = true → HoldsValidFrame s) :
    ReceiveInv (terminal c v m s) := by
  rcases terminal_cases c v m s with ⟨-, ht⟩ | ⟨-, ht⟩ <;> rw [ht]
  · exact complete_receiveInv c m h
  · refine ⟨trivial, ?_⟩
    rintro (h1 | ⟨-, h1⟩)
    · exact absurd h1 (by simp [hv])
    · exact h h1

/-- A valid frame lies in RX_BUF, so a TX_BUF byte is none of it (10_state R31, R32). -/
theorem HoldsValidFrame.write_txBuf {s : State} (h : HoldsValidFrame s) {n : Nat} (v : Byte)
    (lo : 0x800 ≤ n) : HoldsValidFrame { s with mem := Memory.write s.mem n v } := by
  obtain ⟨f, k, ⟨hwf, hver, hcmd, hhi, hlo, hrun, hcs⟩, hrest⟩ := h
  have hlen := frame_wf_iff.1 hwf
  refine ⟨f, k, ⟨hwf, hver, hcmd, hhi, hlo, ?_, hcs⟩, hrest⟩
  rwa [Memory.readRun_write_other v (.inr (by omega))]

/-! ### The running sum, byte by byte (41_checksum R85, 42_frame_decode R93-R97) -/

theorem RxSum.version {s : State} (h : RxSum s) (hp : s.phase = .rxVer) (b : Byte) (r : List Byte) :
    RxSum { s with rxq := r, acc := s.acc + b, rxVer := some b, phase := .rxCmd } := by
  simp only [RxSum, hp] at h
  exact ⟨b, rfl, by rw [h]⟩

theorem RxSum.command {s : State} (h : RxSum s) (hp : s.phase = .rxCmd) (b : Byte) (r : List Byte) :
    RxSum { s with rxq := r, acc := s.acc + b, rxCmd := some b, phase := .rxLenH } := by
  simp only [RxSum, hp] at h
  obtain ⟨ver, hver, hacc⟩ := h
  exact ⟨ver, b, hver, rfl, by rw [hacc]⟩

theorem RxSum.lenHi {s : State} (h : RxSum s) (hp : s.phase = .rxLenH) (b : Byte) (r : List Byte) :
    RxSum { s with rxq := r, acc := s.acc + b, rxLenHi := some b, phase := .rxLenL } := by
  simp only [RxSum, hp] at h
  obtain ⟨ver, cmd, hver, hcmd, hacc⟩ := h
  exact ⟨ver, cmd, b, hver, hcmd, rfl, by rw [hacc]⟩

/-- The two length bytes are summed, whatever the length turns out to be (R96). -/
theorem RxSum.header {s : State} (h : RxSum s) (hp : s.phase = .rxLenL) {hi b : Byte}
    (hhi : receivedLenHi s.rxLenHi b = hi) :
    ∃ ver cmd, s.rxVer = some ver ∧ s.rxCmd = some cmd ∧ s.rxLenHi = some hi ∧
      s.acc + b = checksum s.params ver cmd (u16 hi b) [] := by
  simp only [RxSum, hp] at h
  obtain ⟨ver, cmd, hi', hver, hcmd, hhi', hacc⟩ := h
  rw [hhi', receivedLenHi_some] at hhi
  subst hhi
  exact ⟨ver, cmd, hver, hcmd, hhi', by rw [hacc, checksum_nil, hiByte_u16, loByte_u16]⟩

theorem RxSum.lenZero {s : State} (h : RxSum s) (hp : s.phase = .rxLenL) {hi b : Byte}
    (hhi : receivedLenHi s.rxLenHi b = hi) (h0 : u16 hi b = 0) (r : List Byte) :
    RxSum { s with rxq := r, acc := s.acc + b, rxLenLo := some b, len := u16 hi b,
                   phase := .rxCsum } := by
  obtain ⟨ver, cmd, hver, hcmd, hlenHi, hacc⟩ := h.header hp hhi
  refine ⟨ver, cmd, [], hver, hcmd, ?_, ?_, ?_, hacc⟩
  · rw [hiByte_u16]; exact hlenHi
  · rw [loByte_u16]
  · simp [h0]

theorem RxSum.lenOk {s : State} (h : RxSum s) (hp : s.phase = .rxLenL) {hi b : Byte}
    (hhi : receivedLenHi s.rxLenHi b = hi) (r : List Byte) :
    RxSum { s with rxq := r, acc := s.acc + b, rxLenLo := some b, len := u16 hi b,
                   idx := 0, phase := .rxPay } := by
  obtain ⟨ver, cmd, hver, hcmd, hlenHi, hacc⟩ := h.header hp hhi
  refine ⟨ver, cmd, [], hver, hcmd, ?_, ?_, rfl, hacc⟩
  · rw [hiByte_u16]; exact hlenHi
  · rw [loByte_u16]

/-- The stored payload grows by the byte received, and the sum with it (R97). -/
theorem RxSum.storedByte {s : State} (h : RxSum s) (hp : s.phase = .rxPay)
    (hi : s.idx.toNat < 1024) (b : Byte) :
    ∃ ver cmd P, s.rxVer = some ver ∧ s.rxCmd = some cmd ∧ s.rxLenHi = some (hiByte s.len) ∧
      s.rxLenLo = some (loByte s.len) ∧
      Memory.readRun (Memory.write s.mem (rxBufAddr (s.idx.setWidth 10)) b) 0x400
        (s.idx.toNat + 1) = .ok P ∧
      s.acc + b = checksum s.params ver cmd s.len P := by
  simp only [RxSum, hp] at h
  obtain ⟨ver, cmd, P, hver, hcmd, hlenHi, hlenLo, hrun, hacc⟩ := h
  have haddr : rxBufAddr (s.idx.setWidth 10) = 0x400 + s.idx.toNat := by
    simp [rxBufAddr, Nat.mod_eq_of_lt hi]
  refine ⟨ver, cmd, P ++ [b], hver, hcmd, hlenHi, hlenLo, ?_, ?_⟩
  · rw [haddr]; exact Memory.readRun_write_end b hrun
  · rw [hacc, checksum_snoc]

theorem RxSum.payloadEnd {s : State} (h : RxSum s) (hp : s.phase = .rxPay)
    (hi : s.idx.toNat < 1024) (hend : s.idx.toNat + 1 = s.len.toNat) (b : Byte) (r : List Byte) :
    RxSum { s with rxq := r, acc := s.acc + b, phase := .rxCsum,
                   mem := Memory.write s.mem (rxBufAddr (s.idx.setWidth 10)) b } := by
  obtain ⟨ver, cmd, P, hver, hcmd, hlenHi, hlenLo, hrun, hacc⟩ := h.storedByte hp hi b
  exact ⟨ver, cmd, P, hver, hcmd, hlenHi, hlenLo, hend ▸ hrun, hacc⟩

theorem RxSum.payload {s : State} (h : RxSum s) (hp : s.phase = .rxPay)
    (hi : s.idx.toNat < 1024) (b : Byte) (r : List Byte) :
    RxSum { s with rxq := r, acc := s.acc + b, idx := s.idx + 1,
                   mem := Memory.write s.mem (rxBufAddr (s.idx.setWidth 10)) b } := by
  obtain ⟨ver, cmd, P, hver, hcmd, hlenHi, hlenLo, hrun, hacc⟩ := h.storedByte hp hi b
  have hidx : (s.idx + 1).toNat = s.idx.toNat + 1 := by bv_omega
  simp only [RxSum, hp, hidx]
  exact ⟨ver, cmd, P, hver, hcmd, hlenHi, hlenLo, hrun, hacc⟩

/-- A checksum byte equal to the sum makes the frame received a valid one (R98, 41_checksum R83). -/
theorem RxSum.holdsValidFrame {s : State} (h : RxSum s) (hp : s.phase = .rxCsum)
    (hlen : s.len.toNat ≤ 1024) (r : List Byte) :
    HoldsValidFrame { s with rxq := r, rxCsum := some s.acc, calcCsum := some s.acc } := by
  simp only [RxSum, hp] at h
  obtain ⟨ver, cmd, P, hver, hcmd, hlenHi, hlenLo, hrun, hacc⟩ := h
  have hP : P.length = s.len.toNat := Memory.readRun_length hrun
  have hL : BitVec.ofNat 16 P.length = s.len := by simp [hP]
  refine ⟨⟨ver, cmd, P⟩, s.acc, ⟨frame_wf_iff.2 (hP ▸ hlen), hver, hcmd, ?_, ?_, ?_, rfl⟩, rfl, ?_⟩
  · rw [hL]; exact hlenHi
  · rw [hL]; exact hlenLo
  · rw [hP]; exact hrun
  · simp [frameIsValid, hL, hacc]

/-! ### The receive invariant under each agent's action -/

@[simp] theorem txAccepted_status (b : Byte) (s : State) : (txAccepted b s).status = s.status := by
  unfold txAccepted
  dsimp only
  split <;> split <;> rfl

/-- An accepted byte leaves the engine on the transmit path (43_frame_encode R113). -/
theorem txAccepted_phase {s : State} (hp : s.phase = .txEmit) (b : Byte) :
    (txAccepted b s).phase = .txEmit ∨ (txAccepted b s).phase = .txFlush := by
  unfold txAccepted
  dsimp only
  split
  · exact .inr rfl
  · left
    dsimp only
    split <;> exact hp

theorem txAccepted_receiveInv {s : State} (hp : s.phase = .txEmit)
    (hv : s.status.frameValid = false) (b : Byte) : ReceiveInv (txAccepted b s) := by
  have hv' : (txAccepted b s).status.frameValid = false := by rwa [txAccepted_status]
  rcases txAccepted_phase hp b with h | h <;>
    exact RxSum.receiveInv (by simp only [RxSum, h]) hv' (by simp [h])

/-- Every outcome of an engine turn keeps the receive invariant; a hold, a fault's mark and a drained byte
touch no field it reads. -/
theorem TurnEffect.receiveInv {s t : State} (h : TurnEffect s t) (hflag : FlagInv s)
    (hrange : RangeInv s) (hr : ReceiveInv s) : ReceiveInv t := by
  obtain ⟨hsum, hpub⟩ := receiveInv_iff.1 hr
  have hv {p : Phase} (hp : s.phase = p) (hne : p ≠ .idle) : s.status.frameValid = false :=
    frameValid_of_phase hflag (hp ▸ hne)
  obtain ⟨hpay, hcsum, -, -⟩ := hrange
  have hidx (hp : s.phase = .rxPay) : s.idx.toNat < 1024 := by
    have := hpay hp
    omega
  cases h with
  | hold => exact hr
  | csumTooLarge => exact complete_receiveInv _ _ nofun
  | csumFault => exact hr
  | csumDone => exact complete_receiveInv _ _ nofun
  | noData => exact complete_receiveInv _ _ nofun
  | search p b r hp _ hp' =>
    have hv' : s.status.frameValid = false := hp.elim (hv · nofun) (hv · nofun)
    rcases hp' with rfl | rfl <;> exact RxSum.receiveInv trivial hv' nofun
  | marker r hp => exact RxSum.receiveInv rfl (hv hp nofun) nofun
  | version b r hp => exact (hsum.version hp b r).receiveInv (hv hp nofun) nofun
  | command b r hp => exact (hsum.command hp b r).receiveInv (hv hp nofun) nofun
  | lenHi b r hp => exact (hsum.lenHi hp b r).receiveInv (hv hp nofun) nofun
  | overflow hi b r hp => exact terminal_receiveInv _ _ (hv hp nofun) nofun
  | lenZero hi b r hp hhi _ h0 =>
    exact (hsum.lenZero hp hhi h0 r).receiveInv (hv hp nofun) nofun
  | lenOk hi b r hp hhi => exact (hsum.lenOk hp hhi r).receiveInv (hv hp nofun) nofun
  | payloadEnd b r hp _ hend =>
    exact (hsum.payloadEnd hp (hidx hp) hend b r).receiveInv (hv hp nofun) nofun
  | payload b r hp =>
    exact (hsum.payload hp (hidx hp) b r).receiveInv (hv hp nofun) (by simp [hp])
  | csumOk b r hp _ heq =>
    subst heq
    exact terminal_receiveInv _ _ (hv hp nofun) fun _ => hsum.holdsValidFrame hp (hcsum hp) r
  | csumWrong b r hp => exact terminal_receiveInv _ _ (hv hp nofun) nofun
  | drainEnd hp => exact complete_receiveInv _ _ fun h => hpub (.inr ⟨hp, h⟩)
  | drain => exact hr
  | txTooLarge => exact complete_receiveInv _ _ nofun
  | txStart hp => exact RxSum.receiveInv trivial (hv hp nofun) nofun
  | txFault => exact hr
  | txReject => exact complete_receiveInv _ _ nofun
  | txAccept b hp => exact txAccepted_receiveInv hp (hv hp nofun) b
  | txFlush => exact complete_receiveInv _ _ nofun

/-- No operation starts in a phase that sums or drains (40_control R77). -/
theorem accept_receiveInv (o : Operation) (s : State) : ReceiveInv (accept o s) := by
  cases o <;> exact RxSum.receiveInv trivial rfl nofun

theorem illegalWrite_receiveInv {s : State} (hflag : FlagInv s) (hb : s.status.busy = false) :
    ReceiveInv (illegalWrite s) := by
  have hp := phase_of_not_busy hflag hb
  exact RxSum.receiveInv (by simp [RxSum, hp]) rfl (by simp [hp])

theorem exec_receiveInv {i : Instr} {s t : State} (h : exec i s = .next t) (hflag : FlagInv s)
    (hr : ReceiveInv s) : ReceiveInv t := by
  obtain ⟨-, ⟨-, rfl⟩ | ⟨hb, ⟨o, -, rfl⟩ | rfl⟩⟩ := exec_cases h
  · exact hr
  · exact accept_receiveInv o s
  · exact illegalWrite_receiveInv hflag hb

/-- The host's operands and TX_BUF are nothing the receive invariant speaks of (10_state R29-R32). -/
theorem OperandWritten.receiveInv {s t : State} (h : OperandWritten s t) (hp : s.phase = .idle)
    (hr : ReceiveInv s) : ReceiveInv t := by
  obtain ⟨v, rfl⟩ | ⟨v, rfl⟩ | ⟨v, rfl⟩ | ⟨v, rfl⟩ | ⟨v, rfl⟩ | ⟨n, v, lo, -, rfl⟩ := h
  case inr.inr.inr.inr.inr =>
    obtain ⟨-, hpub⟩ := receiveInv_iff.1 hr
    exact receiveInv_iff.2 ⟨by simp [RxSum, hp], fun h => (hpub h).write_txBuf v lo⟩
  all_goals exact hr

theorem registerWrite_receiveInv (a : Addr) (v : Byte) {s : State} (hflag : FlagInv s)
    (hr : ReceiveInv s) : ReceiveInv (registerWrite a v s) := by
  rcases registerWrite_cases a v s with h | ⟨-, h⟩ | ⟨hb, h⟩
  · rwa [h]
  · rw [h]; exact hr
  · exact h.receiveInv (phase_of_not_busy hflag hb) hr

theorem hostRead_receiveInv (a : Addr) {s : State} (hr : ReceiveInv s) :
    ReceiveInv (hostRead a s) := by
  rcases hostRead_cases a s with ⟨v, -, h⟩ | ⟨f, -, h⟩ <;> rw [h] <;> exact hr

theorem rxArrive_receiveInv (b : Byte) {s : State} (hr : ReceiveInv s) :
    ReceiveInv (rxArrive b s) := by
  rcases rxArrive_cases b s with h | h <;> rw [h] <;> exact hr

theorem resetFce_receiveInv (s : State) : ReceiveInv (resetFce s) :=
  RxSum.receiveInv trivial rfl nofun

theorem act_receiveInv {a : Action} {s t : State} (h : act a s = .next t) (hc : ControlInv s)
    (hr : ReceiveInv s) : ReceiveInv t := by
  obtain ⟨hflag, hrange, -⟩ := hc
  obtain ⟨addr, -, rfl⟩ | ⟨v, -, hx⟩ | ⟨addr, v, -, -, rfl⟩ | ⟨-, rfl⟩ | ⟨b, -, rfl⟩ | ⟨ans, -, rfl⟩ :=
    act_cases h
  · exact hostRead_receiveInv addr hr
  · exact exec_receiveInv hx hflag hr
  · exact registerWrite_receiveInv addr v hflag hr
  · exact resetFce_receiveInv s
  · exact rxArrive_receiveInv b hr
  · exact (engineTurn_effect ans s).receiveInv hflag hrange hr

/-! ### The choice of the agent touches neither invariant (log entries 3, 4) -/

theorem chosen_controlInv {s : State} : ControlInv s.chosen ↔ ControlInv s := by
  unfold State.chosen
  split <;> exact Iff.rfl

theorem chosen_receiveInv {s : State} : ReceiveInv s.chosen ↔ ReceiveInv s := by
  unfold State.chosen
  split <;> exact Iff.rfl

/-! ### The obligation -/

/-- Settles O57: the action taken keeps the invariant, and the choice of it changes nothing there. -/
theorem stepKeepsTheReceiveInvariant : Obligations.StepKeepsTheReceiveInvariant := by
  intro s t hc hr h
  exact act_receiveInv (step_next.1 h).2 (chosen_controlInv.2 hc) (chosen_receiveInv.2 hr)

end Sys2Proof.Machine
end

section
/-! SUPPORT. STATUS is RESULT with four flags appended, each the byte's last bit as it is (10_state R25), with
the obligation it settles. -/

namespace Sys2Proof.Machine

open Sys2Proof

theorem append_flagBit_getLsbD_zero {w : Nat} (x : BitVec w) (b : Bool) :
    (x ++ flagBit b).getLsbD 0 = b := by
  rw [BitVec.getLsbD_append]
  cases b <;> rfl

theorem append_flagBit_getLsbD_succ {w : Nat} (x : BitVec w) (b : Bool) (i : Nat) :
    (x ++ flagBit b).getLsbD (i + 1) = x.getLsbD i := by
  simp [BitVec.getLsbD_append]

theorem append_flagBit_toNat_div {w : Nat} (x : BitVec w) (b : Bool) :
    (x ++ flagBit b).toNat / 2 = x.toNat := by
  have h : (flagBit b).toNat < 2 := (flagBit b).isLt
  rw [BitVec.toNat_append, Nat.shiftLeft_eq, Nat.mul_comm,
    ← Nat.two_pow_add_eq_or_of_lt (by simpa using h)]
  omega

/-- Settles O13: the byte is RESULT with the four flags appended one after the other. -/
theorem statusByteLayout : Obligations.StatusByteLayout := by
  refine ⟨fun st => ⟨?_, ?_, ?_, ?_, ?_⟩, rfl⟩
  · simp only [Status.toByte, append_flagBit_getLsbD_zero]
  · simp only [Status.toByte, append_flagBit_getLsbD_zero, append_flagBit_getLsbD_succ]
  · simp only [Status.toByte, append_flagBit_getLsbD_zero, append_flagBit_getLsbD_succ]
  · simp only [Status.toByte, append_flagBit_getLsbD_zero, append_flagBit_getLsbD_succ]
  · calc st.toByte.toNat / 16 = st.toByte.toNat / 2 / 2 / 2 / 2 := by omega
      _ = st.result.code.toNat := by simp only [Status.toByte, append_flagBit_toNat_div]

end Sys2Proof.Machine
end

section
/-! SUPPORT. The host's accesses over the register map (10_state R23; 20_memory R42-R44): what a read of each
address gives, what a write to it does, and a read after a write, with the obligations they settle. -/

namespace Sys2Proof.Machine

open Sys2Proof

/-! ### Addresses -/

theorem isOperandAddr_iff {a : Addr} : isOperandAddr a = true ↔
    (0x008 ≤ a.toNat ∧ a.toNat ≤ 0x00C) ∨ (0x800 ≤ a.toNat ∧ a.toNat < 0xC00) := by
  simp [isOperandAddr]

theorem isOperandAddr_false_iff {a : Addr} : isOperandAddr a = false ↔
    ¬ ((0x008 ≤ a.toNat ∧ a.toNat ≤ 0x00C) ∨ (0x800 ≤ a.toNat ∧ a.toNat < 0xC00)) := by
  rw [← isOperandAddr_iff, Bool.not_eq_true]

theorem isReservedAddr_iff {a : Addr} : isReservedAddr a = true ↔
    (0x00D ≤ a.toNat ∧ a.toNat < 0x400) ∨ 0xC00 ≤ a.toNat := by
  simp [isReservedAddr]

/-- The operands are five registers and TX_BUF. -/
theorem operandAddr_cases {a : Addr} (h : isOperandAddr a = true) :
    a = 0x008 ∨ a = 0x009 ∨ a = 0x00A ∨ a = 0x00B ∨ a = 0x00C ∨
    (0x800 ≤ a.toNat ∧ a.toNat < 0xC00) := by
  have := isOperandAddr_iff.1 h
  bv_omega

theorem ne_ctrl_of_operand {a : Addr} (h : isOperandAddr a = true) : a ≠ 0x000 := by
  rintro rfl
  exact absurd h (by decide)

theorem ne_ctrl_of_reserved {a : Addr} (h : isReservedAddr a = true) : a ≠ 0x000 := by
  rintro rfl
  exact absurd h (by decide)

theorem not_operand_of_reserved {a : Addr} (h : isReservedAddr a = true) :
    isOperandAddr a = false := by
  have := isReservedAddr_iff.1 h
  exact isOperandAddr_false_iff.2 (by omega)

/-! The register space holds both buffers, so no address in them is cut to 12 bits. -/

theorem rxBufAddr_addr_toNat (i : BufIndex) :
    (BitVec.ofNat 12 (rxBufAddr i)).toNat = rxBufAddr i :=
  Nat.mod_eq_of_lt (Nat.lt_trans (rxBufAddr_lt i) (by decide))

theorem txBufAddr_addr_toNat (i : BufIndex) :
    (BitVec.ofNat 12 (txBufAddr i)).toNat = txBufAddr i :=
  Nat.mod_eq_of_lt (Nat.lt_trans (txBufAddr_range i).2 (by decide))

theorem isOperandAddr_txBufAddr (i : BufIndex) :
    isOperandAddr (BitVec.ofNat 12 (txBufAddr i)) = true :=
  isOperandAddr_iff.2 (.inr (by rw [txBufAddr_addr_toNat]; exact txBufAddr_range i))

@[simp] theorem bufIndex_rxBufAddr (i : BufIndex) : bufIndex (rxBufAddr i) = i := by
  apply BitVec.eq_of_toNat_eq
  simp only [bufIndex_toNat, rxBufAddr]
  omega

@[simp] theorem bufIndex_txBufAddr (i : BufIndex) : bufIndex (txBufAddr i) = i := by
  apply BitVec.eq_of_toNat_eq
  simp only [bufIndex_toNat, txBufAddr]
  omega

/-! ### Reads (R42, R44) -/

theorem memRead_pastRegisters {a : Addr} (s : State) (h : 0x00D ≤ a.toNat) :
    memRead a s =
      if 0x400 ≤ a.toNat ∧ a.toNat < 0x800 then
        orUnwritten (.rxBuf (bufIndex a.toNat)) (Memory.read s.mem a.toNat)
      else if 0x800 ≤ a.toNat ∧ a.toNat < 0xC00 then
        orUnwritten (.txBuf (bufIndex a.toNat)) (Memory.read s.mem a.toNat)
      else .ok 0x00 := by
  unfold memRead
  split
  case h_14 => rfl
  all_goals omega

theorem memRead_txBuf {a : Addr} (s : State) (lo : 0x800 ≤ a.toNat) (hi : a.toNat < 0xC00) :
    memRead a s = orUnwritten (.txBuf (bufIndex a.toNat)) (Memory.read s.mem a.toNat) := by
  rw [memRead_pastRegisters s (by omega), if_neg (by omega), if_pos ⟨lo, hi⟩]

theorem memRead_rxBufAddr (i : BufIndex) (s : State) :
    memRead (BitVec.ofNat 12 (rxBufAddr i)) s =
      orUnwritten (.rxBuf i) (Memory.read s.mem (rxBufAddr i)) := by
  have hi := rxBufAddr_lt i
  have lo : 0x400 ≤ rxBufAddr i := Nat.le_add_right _ _
  rw [memRead_pastRegisters s (by rw [rxBufAddr_addr_toNat]; omega), rxBufAddr_addr_toNat,
    if_pos ⟨lo, hi⟩, bufIndex_rxBufAddr]

theorem memRead_txBufAddr (i : BufIndex) (s : State) :
    memRead (BitVec.ofNat 12 (txBufAddr i)) s =
      orUnwritten (.txBuf i) (Memory.read s.mem (txBufAddr i)) := by
  obtain ⟨lo, hi⟩ := txBufAddr_range i
  rw [memRead_txBuf, txBufAddr_addr_toNat, bufIndex_txBufAddr] <;> rwa [txBufAddr_addr_toNat]

theorem memRead_reserved {a : Addr} (s : State) (h : isReservedAddr a = true) :
    memRead a s = .ok 0x00 := by
  have := isReservedAddr_iff.1 h
  rw [memRead_pastRegisters s (by omega), if_neg (by omega), if_neg (by omega)]

theorem readReturns_of_memRead {a : Addr} {s : State} {v : Byte} (h : memRead a s = .ok v) :
    ReadReturns a s v := by
  simp only [ReadReturns, act, hostRead, h]

theorem readsStorage_of_memRead {a : Addr} {s : State} {r : Storage} {o : Option Byte}
    (h : memRead a s = orUnwritten r o) : ReadsStorage a s r o := by
  cases o with
  | some v => exact readReturns_of_memRead h
  | none => simp only [ReadsStorage, ReadFaults, act, hostRead, h, orUnwritten, State.raise]

/-- Settles O14: `memRead` at each register is its equation there; the buffers and the reserved ranges
have a lemma each. -/
theorem memReadFollowsTheMap : Obligations.MemReadFollowsTheMap := by
  intro s _
  exact ⟨readReturns_of_memRead rfl, readReturns_of_memRead rfl, readsStorage_of_memRead rfl,
    readsStorage_of_memRead rfl, readsStorage_of_memRead rfl, readsStorage_of_memRead rfl,
    readsStorage_of_memRead rfl, readsStorage_of_memRead rfl, readReturns_of_memRead rfl,
    readReturns_of_memRead rfl, readReturns_of_memRead rfl, readReturns_of_memRead rfl,
    readReturns_of_memRead rfl, fun i => readsStorage_of_memRead (memRead_rxBufAddr i s),
    fun i => readsStorage_of_memRead (memRead_txBufAddr i s),
    fun a ha => readReturns_of_memRead (memRead_reserved s ha)⟩

/-! ### Writes (R43, R44) -/

theorem operandWrite_busy {s : State} (hb : s.status.busy = true) (go : State → State) :
    operandWrite go s = dropWrite s := by
  simp [operandWrite, hb]

theorem operandWrite_idle {s : State} (hb : s.status.busy = false) (go : State → State) :
    operandWrite go s = go s := by
  simp [operandWrite, hb]

theorem hostWrite_ctrl (v : Byte) (s : State) :
    act (.hostWrite 0x000 v) s = exec (decodeCtrl v) s := rfl

theorem hostWrite_notCtrl {a : Addr} (h : a ≠ 0x000) (v : Byte) (s : State) :
    act (.hostWrite a v) s = .next (registerWrite a v s) := if_neg h

theorem registerWrite_txBuf {a : Addr} (lo : 0x800 ≤ a.toNat) (hi : a.toNat < 0xC00) (v : Byte)
    (s : State) : registerWrite a v s =
      operandWrite (fun s => { s with mem := Memory.write s.mem a.toNat v }) s := by
  unfold registerWrite
  split
  case h_6 => rw [if_pos ⟨lo, hi⟩]
  all_goals omega

theorem registerWrite_txBufAddr (i : BufIndex) (v : Byte) (s : State) :
    registerWrite (BitVec.ofNat 12 (txBufAddr i)) v s =
      operandWrite (fun s => { s with mem := Memory.write s.mem (txBufAddr i) v }) s := by
  obtain ⟨lo, hi⟩ := txBufAddr_range i
  rw [registerWrite_txBuf, txBufAddr_addr_toNat] <;> rwa [txBufAddr_addr_toNat]

theorem registerWrite_busy {a : Addr} {s : State} (ha : isOperandAddr a = true)
    (hb : s.status.busy = true) (v : Byte) : registerWrite a v s = dropWrite s := by
  obtain rfl | rfl | rfl | rfl | rfl | ⟨lo, hi⟩ := operandAddr_cases ha
  case inr.inr.inr.inr.inr => rw [registerWrite_txBuf lo hi, operandWrite_busy hb]
  all_goals simp [registerWrite, operandWrite_busy hb]

theorem registerWrite_notOperand {a : Addr} (ha : isOperandAddr a = false) (v : Byte) (s : State) :
    registerWrite a v s = s := by
  have := isOperandAddr_false_iff.1 ha
  unfold registerWrite
  split
  case h_6 => rw [if_neg (by omega)]
  all_goals omega

theorem hostWrite_notOperand {a : Addr} (h0 : a ≠ 0x000) (ha : isOperandAddr a = false) (v : Byte)
    (s : State) : act (.hostWrite a v) s = .next s := by
  rw [hostWrite_notCtrl h0, registerWrite_notOperand ha]

/-- Settles O15: an operand address drops or stores, and `registerWrite` is the identity elsewhere. -/
theorem memWriteFollowsTheMap : Obligations.MemWriteFollowsTheMap := by
  intro s v _
  refine ⟨hostWrite_ctrl v s, fun hb a ha => ?_, fun hb => ?_,
    fun a h0 ha => hostWrite_notOperand h0 ha v s⟩
  · rw [hostWrite_notCtrl (ne_ctrl_of_operand ha), registerWrite_busy ha hb]
    rfl
  · refine ⟨?_, ?_, ?_, ?_, ?_, fun i => ?_⟩
    case refine_6 =>
      calc act (.hostWrite (BitVec.ofNat 12 (txBufAddr i)) v) s
          = .next (registerWrite (BitVec.ofNat 12 (txBufAddr i)) v s) :=
            hostWrite_notCtrl (ne_ctrl_of_operand (isOperandAddr_txBufAddr i)) v s
        _ = .next { s with mem := Memory.write s.mem (txBufAddr i) v } := by
            rw [registerWrite_txBufAddr, operandWrite_idle hb]
    all_goals simp [hostWrite_notCtrl, registerWrite, operandWrite_idle hb]

/-- Settles O16: a reserved address is no operand, and reads as zero. -/
theorem reservedAddressesReadZeroAndIgnoreWrites :
    Obligations.ReservedAddressesReadZeroAndIgnoreWrites := by
  intro s a v _ ha
  exact ⟨readReturns_of_memRead (memRead_reserved s ha),
    hostWrite_notOperand (ne_ctrl_of_reserved ha) (not_operand_of_reserved ha) v s⟩

/-! ### A read after a write (R43, R56) -/

theorem memRead_registerWrite_same {a : Addr} {s : State} (ha : isOperandAddr a = true)
    (hb : s.status.busy = false) (v : Byte) : memRead a (registerWrite a v s) = .ok v := by
  obtain rfl | rfl | rfl | rfl | rfl | ⟨lo, hi⟩ := operandAddr_cases ha
  case inr.inr.inr.inr.inr =>
    rw [registerWrite_txBuf lo hi, operandWrite_idle hb, memRead_txBuf _ lo hi,
      Memory.read_write_same]
    rfl
  all_goals simp [registerWrite, operandWrite_idle hb, memRead]

/-- Of memory, a read sees its own address alone. -/
theorem memRead_mem_congr {b : Addr} {s : State} {m : Memory}
    (h : Memory.read m b.toNat = Memory.read s.mem b.toNat) :
    memRead b { s with mem := m } = memRead b s := by
  unfold memRead
  split <;> simp_all

theorem memRead_registerWrite_other {a b : Addr} {s : State} (hba : b ≠ a)
    (hb : s.status.busy = false) (v : Byte) :
    memRead b (registerWrite a v s) = memRead b s := by
  have hne : b.toNat ≠ a.toNat := fun h => hba (BitVec.eq_of_toNat_eq h)
  unfold registerWrite
  split
  case h_6 =>
    split
    · rw [operandWrite_idle hb]
      exact memRead_mem_congr (Memory.read_write_other v hne)
    · rfl
  all_goals
    rename_i hreg
    rw [hreg] at hne
    rw [operandWrite_idle hb]
    unfold memRead
    split <;> simp_all

theorem OperandWritten.engine_frame {s t : State} (h : OperandWritten s t) :
    t.phase = s.phase ∧ t.op = s.op ∧ t.rxq = s.rxq ∧ t.txlog = s.txlog := by
  obtain ⟨v, rfl⟩ | ⟨v, rfl⟩ | ⟨v, rfl⟩ | ⟨v, rfl⟩ | ⟨v, rfl⟩ | ⟨n, v, -, -, rfl⟩ := h <;>
    exact ⟨rfl, rfl, rfl, rfl⟩

theorem registerWrite_engine_frame (a : Addr) (v : Byte) (s : State) :
    (registerWrite a v s).phase = s.phase ∧ (registerWrite a v s).op = s.op ∧
    (registerWrite a v s).rxq = s.rxq ∧ (registerWrite a v s).txlog = s.txlog := by
  rcases registerWrite_cases a v s with h | ⟨-, h⟩ | ⟨-, h⟩
  · simp [h]
  · simp [h]
  · exact h.engine_frame

/-- Settles O17: a write to an operand is what its next read returns, and no other read sees it. -/
theorem hostReadsTheByteItWrote : Obligations.HostReadsTheByteItWrote := by
  intro s a v _ hb ha
  exact ⟨registerWrite a v s, hostWrite_notCtrl (ne_ctrl_of_operand ha) v s,
    readReturns_of_memRead (memRead_registerWrite_same ha hb v),
    fun _ hba => memRead_registerWrite_other hba hb v, registerWrite_engine_frame a v s⟩

/-! ### The host's write to CTRL as a scheduled step (40_control R74) -/

theorem decodeCtrl_wf (v : Byte) : (decodeCtrl v).wf = true := by
  revert v
  decide

theorem tableByte_ctrl (w : Nat) : tableByte 8 w = BitVec.ofNat 8 w := by
  apply BitVec.eq_of_toNat_eq
  simp [tableByte]

/-- Settles O4: the step at the head of the agenda is the host's write to CTRL, and withFetchWord puts it
there (log entry 7). -/
theorem stepRunsTheDecodedCtrlWord : Obligations.StepRunsTheDecodedCtrlWord := by
  refine ⟨fun s v rest hf h => ⟨decodeCtrl_wf v, ?_⟩, fun s w hf => ?_⟩
  · rw [step_scheduled hf h, hostWrite_ctrl]
  · calc step (s.withFetchWord 8 w) = act (.hostWrite 0x000 (tableByte 8 w)) s :=
          step_scheduled (s := s.withFetchWord 8 w) hf rfl
      _ = exec (decodeCtrl (BitVec.ofNat 8 w)) s := by rw [hostWrite_ctrl, tableByte_ctrl]

end Sys2Proof.Machine
end

section
/-! SUPPORT. RXQ, the byte source's queue (20_memory R51, R52): who appends to it and who takes from it, with
the obligations it settles. -/

namespace Sys2Proof.Machine

open Sys2Proof

theorem rxArrive_append {b : Byte} {s : State}
    (h : ∀ n, s.params.rxSourceCapacity = some n → s.rxq.length < n) :
    rxArrive b s = { s with rxq := s.rxq ++ [b] } := by
  unfold rxArrive
  split
  · rfl
  · rename_i n hn
    exact if_pos (h n hn)

theorem rxArrive_full {b : Byte} {s : State} {n : Nat} (hn : s.params.rxSourceCapacity = some n)
    (h : n ≤ s.rxq.length) : rxArrive b s = s := by
  simp [rxArrive, hn, Nat.not_lt.2 h]

theorem avail_iff {s : State} : s.avail = true ↔ s.rxq ≠ [] := by
  simp [State.avail]

/-- Settles O18, by the two outcomes of an arrival. -/
theorem arrivalsAppendOrAreLost : Obligations.ArrivalsAppendOrAreLost := by
  intro s b
  refine ⟨fun h => congrArg _ (rxArrive_append (by simp [h])),
    fun n h hl => congrArg _ (rxArrive_append ?_),
    fun n h hl => congrArg _ (rxArrive_full h hl), resetFce_rxq s, avail_iff⟩
  intro m hm
  rw [h] at hm
  cases hm
  exact hl

@[simp] theorem terminal_rxq (c : Result) (v m : Bool) (s : State) :
    (terminal c v m s).rxq = s.rxq := by
  rcases terminal_cases c v m s with ⟨-, h⟩ | ⟨-, h⟩ <;> rw [h]
  exact complete_rxq c v m s

@[simp] theorem txAccepted_rxq (b : Byte) (s : State) : (txAccepted b s).rxq = s.rxq := by
  unfold txAccepted
  dsimp only
  split <;> split <;> rfl

/-- An engine turn leaves RXQ, or takes its head (R52). -/
theorem TurnEffect.rxq {s t : State} (h : TurnEffect s t) :
    t.rxq = s.rxq ∨ ∃ b, s.rxq = b :: t.rxq := by
  cases h with
  | overflow hi b r _ _ hq => exact .inr ⟨b, by rwa [terminal_rxq]⟩
  | csumOk b r _ hq => exact .inr ⟨b, by rwa [terminal_rxq]⟩
  | csumWrong b r _ hq => exact .inr ⟨b, by rwa [terminal_rxq]⟩
  | search | marker | version | command | lenHi | lenZero | lenOk | payloadEnd | payload | drain =>
    exact .inr ⟨_, ‹_›⟩
  | txAccept b => exact .inl (txAccepted_rxq b s)
  | _ => exact .inl rfl

theorem exec_rxq {i : Instr} {s t : State} (h : exec i s = .next t) : t.rxq = s.rxq := by
  obtain ⟨-, ⟨-, rfl⟩ | ⟨-, ⟨o, -, rfl⟩ | rfl⟩⟩ := exec_cases h <;> rfl

@[simp] theorem hostRead_rxq (a : Addr) (s : State) : (hostRead a s).rxq = s.rxq := by
  rcases hostRead_cases a s with ⟨v, -, h⟩ | ⟨f, -, h⟩
  · rw [h]
  · rw [h, State.raise_rxq]

@[simp] theorem registerWrite_rxq (a : Addr) (v : Byte) (s : State) :
    (registerWrite a v s).rxq = s.rxq := by
  obtain ⟨-, -, hq, -⟩ := registerWrite_engine_frame a v s
  exact hq

/-- Settles O19, agent by agent. -/
theorem onlyTheEngineTakesBytesFromTheHead : Obligations.OnlyTheEngineTakesBytesFromTheHead := by
  intro a s t h
  obtain ⟨addr, rfl, rfl⟩ | ⟨v, rfl, hx⟩ | ⟨addr, v, rfl, -, rfl⟩ | ⟨rfl, rfl⟩ |
    ⟨b, rfl, rfl⟩ | ⟨ans, rfl, rfl⟩ := act_cases h
  case inr.inr.inr.inr.inr => exact ⟨fun _ => (engineTurn_effect ans s).rxq, nofun⟩
  all_goals refine ⟨nofun, fun _ => ?_⟩
  · exact .inl (hostRead_rxq addr s)
  · exact .inl (exec_rxq hx)
  · exact .inl (registerWrite_rxq addr v s)
  · exact .inl (resetFce_rxq s)
  · rcases rxArrive_cases b s with hb | hb <;> rw [hb]
    · exact .inr ⟨b, rfl, rfl⟩
    · exact .inl rfl

end Sys2Proof.Machine
end

section
/-! SUPPORT. What the sink is offered in TX_EMIT and what its answers do (43_frame_encode R113; 20_memory R53),
with the obligation they settle. -/

namespace Sys2Proof.Machine

open Sys2Proof

/-- Position 6 + i offers TX_BUF[i], or its fault (R113). -/
theorem offered_payload {s : State} {i : BufIndex} (hidx : s.idx.toNat = 6 + i.toNat)
    (hi : i.toNat < s.len.toNat) :
    s.offered = orUnwritten (.txBuf i) (Memory.read s.mem (txBufAddr i)) := by
  have hbuf : bufIndex i.toNat = i := BitVec.ofNat_toNat 10 i
  rw [Nat.add_comm] at hidx
  simp only [State.offered, hidx, if_pos hi, hbuf]

/-- The position after the payload is the checksum's. -/
theorem offered_checksum {s : State} (hidx : s.idx.toNat = 6 + s.len.toNat) :
    s.offered = .ok s.acc := by
  rw [Nat.add_comm] at hidx
  simp only [State.offered, hidx, if_neg (Nat.lt_irrefl _)]

/-- `b` is the byte of position idx in R113's table, the length bytes as numbers. -/
def IsByteOfPosition (s : State) (b : Byte) : Prop :=
  (s.idx.toNat = 0 → b = 0x55) ∧ (s.idx.toNat = 1 → b = 0xAA) ∧
  (s.idx.toNat = 2 → b = s.txVer) ∧ (s.idx.toNat = 3 → b = s.txCmd) ∧
  (s.idx.toNat = 4 → b.toNat = s.len.toNat / 256) ∧
  (s.idx.toNat = 5 → b.toNat = s.len.toNat % 256) ∧
  (6 ≤ s.idx.toNat → s.idx.toNat ≤ 5 + s.len.toNat →
    Memory.read s.mem (0x800 + (s.idx.toNat - 6)) = some b) ∧
  (s.idx.toNat = 6 + s.len.toNat → b = s.acc)

theorem IsByteOfPosition.offered {s : State} {b : Byte} (h : IsByteOfPosition s b)
    (hlen : s.len.toNat ≤ 1024) (hidx : s.idx.toNat ≤ 6 + s.len.toNat) : s.offered = .ok b := by
  obtain ⟨h0, h1, h2, h3, h4, h5, hpay, hcs⟩ := h
  by_cases hend : s.idx.toNat = 6 + s.len.toNat
  · rw [offered_checksum hend, hcs hend]
  · by_cases hsix : 6 ≤ s.idx.toNat
    · have hi : (bufIndex (s.idx.toNat - 6)).toNat = s.idx.toNat - 6 := by
        rw [bufIndex_toNat]
        omega
      rw [offered_payload (i := bufIndex (s.idx.toNat - 6)) (by omega) (by omega), txBufAddr, hi,
        hpay hsix (by omega)]
      rfl
    · have hhi (h : s.idx.toNat = 4) : hiByte s.len = b :=
        BitVec.eq_of_toNat_eq (by rw [hiByte_toNat, h4 h])
      have hlo (h : s.idx.toNat = 5) : loByte s.len = b :=
        BitVec.eq_of_toNat_eq (by rw [loByte_toNat, h5 h])
      unfold State.offered
      split
      case h_7 => omega
      all_goals simp_all

/-! ### The sink's answers (R53) -/

theorem txAccepted_last {s : State} (h : s.idx.toNat = 6 + s.len.toNat) (b : Byte) :
    txAccepted b s =
      { s with txlog := s.txlog ++ [.byte b], calcCsum := some b, phase := .txFlush } := by
  simp [txAccepted, h, State.emit]

theorem txAccepted_before {s : State} (h : s.idx.toNat < 6 + s.len.toNat) (b : Byte) :
    txAccepted b s =
      { s with txlog := s.txlog ++ [.byte b], idx := s.idx + 1,
               acc := if 2 ≤ s.idx.toNat then s.acc + b else s.acc } := by
  have hle : s.idx.toNat ≤ 5 + s.len.toNat := by omega
  by_cases h2 : 2 ≤ s.idx.toNat <;>
    simp [txAccepted, Nat.ne_of_lt h, h2, hle, State.emit, State.addAcc]

/-- Settles O41: the offer is the position's byte or the unwritten byte's fault; each answer has its one
outcome. -/
theorem sinkAnswersDecideTheOffer : Obligations.SinkAnswersDecideTheOffer := by
  intro s hf hp hlen hidx
  refine ⟨fun a i hi hil hnone => ?_, fun b h0 h1 h2 h3 h4 h5 hpay hcs => ?_⟩
  · have ho : s.offered = .error (.unwritten (.txBuf i)) := by
      rw [offered_payload hi hil, txBufAddr, hnone]
      rfl
    rw [engineTurn_txEmit hf hp, txEmitStep, ho]
    rfl
  · have ho : s.offered = .ok b :=
      IsByteOfPosition.offered ⟨h0, h1, h2, h3, h4, h5, hpay, hcs⟩ hlen hidx
    simp only [engineTurn_txEmit hf hp, txEmitStep, ho]
    exact ⟨trivial, rfl, fun h => txAccepted_last h b, fun h => txAccepted_before h b⟩

end Sys2Proof.Machine
end

section
/-! SUPPORT. The host's operands while an operation is in progress (20_memory R59, 40_control R75): no engine
turn writes them and the host's writes are dropped, with the obligation they settle. -/

namespace Sys2Proof.Machine

open Sys2Proof

theorem SameOperands.refl (s : State) : SameOperands s s :=
  ⟨rfl, rfl, rfl, rfl, rfl, fun _ => rfl⟩

theorem SameOperands.chosen (s : State) : SameOperands s s.chosen := by
  unfold State.chosen
  split <;> exact .refl s

theorem SameOperands.trans {s t u : State} (h : SameOperands s t) (k : SameOperands t u) :
    SameOperands s u := by
  obtain ⟨h1, h2, h3, h4, h5, hm⟩ := h
  obtain ⟨k1, k2, k3, k4, k5, km⟩ := k
  exact ⟨k1.trans h1, k2.trans h2, k3.trans h3, k4.trans h4, k5.trans h5,
    fun i => (km i).trans (hm i)⟩

/-- RX_BUF lies below TX_BUF (10_state R23). -/
theorem read_txBuf_write_rxBuf (m : Memory) (i j : BufIndex) (b : Byte) :
    Memory.read (Memory.write m (rxBufAddr j) b) (txBufAddr i) = Memory.read m (txBufAddr i) := by
  have := rxBufAddr_lt j
  obtain ⟨lo, -⟩ := txBufAddr_range i
  exact Memory.read_write_other b (by omega)

theorem terminal_sameOperands (c : Result) (v m : Bool) (s : State) :
    SameOperands s (terminal c v m s) := by
  rcases terminal_cases c v m s with ⟨-, h⟩ | ⟨-, h⟩ <;> rw [h] <;> exact .refl s

theorem txAccepted_sameOperands (b : Byte) (s : State) : SameOperands s (txAccepted b s) := by
  unfold txAccepted
  dsimp only
  split <;> split <;> exact .refl s

/-- No engine turn writes an operand or TX_BUF (10_state R29, R30, R32). -/
theorem TurnEffect.sameOperands {s t : State} (h : TurnEffect s t) : SameOperands s t := by
  cases h with
  | payloadEnd b | payload b =>
    exact ⟨rfl, rfl, rfl, rfl, rfl, fun i => read_txBuf_write_rxBuf s.mem i _ b⟩
  | overflow | csumOk | csumWrong => exact terminal_sameOperands _ _ _ _
  | txAccept b => exact txAccepted_sameOperands b s
  | _ => exact .refl s

theorem engineTurn_sameOperands (a : SinkAnswer) (s : State) : SameOperands s (engineTurn a s) :=
  (engineTurn_effect a s).sameOperands

theorem exec_sameOperands {i : Instr} {s t : State} (h : exec i s = .next t) : SameOperands s t := by
  obtain ⟨-, ⟨-, rfl⟩ | ⟨-, ⟨o, -, rfl⟩ | rfl⟩⟩ := exec_cases h <;> exact .refl s

theorem hostRead_sameOperands (a : Addr) (s : State) : SameOperands s (hostRead a s) := by
  rcases hostRead_cases a s with ⟨v, -, h⟩ | ⟨f, -, h⟩ <;> rw [h] <;> exact .refl s

theorem rxArrive_sameOperands (b : Byte) (s : State) : SameOperands s (rxArrive b s) := by
  rcases rxArrive_cases b s with h | h <;> rw [h] <;> exact .refl s

theorem registerWrite_sameOperands {s : State} (hb : s.status.busy = true) (a : Addr) (v : Byte) :
    SameOperands s (registerWrite a v s) := by
  rcases registerWrite_cases a v s with h | ⟨-, h⟩ | ⟨hidle, -⟩
  · rw [h]; exact .refl s
  · rw [h]; exact .refl s
  · simp [hb] at hidle

theorem act_sameOperands {a : Action} {s t : State} (h : act a s = .next t)
    (hb : s.status.busy = true) (ha : a ≠ .reset) : SameOperands s t := by
  obtain ⟨addr, -, rfl⟩ | ⟨v, -, hx⟩ | ⟨addr, v, -, -, rfl⟩ | ⟨hr, -⟩ | ⟨b, -, rfl⟩ | ⟨ans, -, rfl⟩ :=
    act_cases h
  · exact hostRead_sameOperands addr s
  · exact exec_sameOperands hx
  · exact registerWrite_sameOperands hb addr v
  · exact absurd hr ha
  · exact rxArrive_sameOperands b s
  · exact engineTurn_sameOperands ans s

/-- Settles O52: the choice of the action writes no operand, and neither does the action, reset aside. -/
theorem operandsHoldWhileBusy : Obligations.OperandsHoldWhileBusy := by
  intro s t hb hr h
  exact (SameOperands.chosen s).trans
    (act_sameOperands (step_next.1 h).2 (by rwa [chosen_status]) hr)

end Sys2Proof.Machine
end

section
/-! SUPPORT. What no agent's action reads: TXLOG (20_memory R55) and the agenda (log entry 3). On a state with
another agenda and log, an action does the same and appends the same events; with the obligations this
settles. -/

namespace Sys2Proof.Machine

open Sys2Proof

/-! ### Another agenda and log in place of the state's own -/

/-- `s` with agenda `r` and TXLOG `l`. -/
def State.withUnread (r : List Action) (l : List TxEvent) (s : State) : State :=
  { s with agenda := r, txlog := l }

/-- `f` neither reads nor writes the agenda and TXLOG. -/
def IgnoresUnread (f : State → State) : Prop :=
  ∀ r l s, f (s.withUnread r l) = (f s).withUnread r l

/-- From `s`, `f` does not read the agenda and TXLOG, and appends at most one event. -/
def AppendsAtMostOne (f : State → State) (s : State) : Prop :=
  ∃ e : List TxEvent, e.length ≤ 1 ∧
    ∀ r l, f (s.withUnread r l) = (f s).withUnread r (l ++ e)

@[simp] theorem withUnread_phase (r : List Action) (l : List TxEvent) (s : State) :
    (s.withUnread r l).phase = s.phase := rfl

@[simp] theorem withUnread_offered (r : List Action) (l : List TxEvent) (s : State) :
    (s.withUnread r l).offered = s.offered := rfl

@[simp] theorem withUnread_memRead (r : List Action) (l : List TxEvent) (s : State) (a : Addr) :
    memRead a (s.withUnread r l) = memRead a s := rfl

theorem withUnread_ite {c : Prop} [Decidable c] {r : List Action} {l : List TxEvent}
    {t t' u u' : State} (ht : t' = t.withUnread r l) (hu : u' = u.withUnread r l) :
    (if c then t' else u') = (if c then t else u).withUnread r l := by
  split
  · exact ht
  · exact hu

theorem IgnoresUnread.appends {f : State → State} (h : IgnoresUnread f) (s : State) :
    AppendsAtMostOne f s :=
  ⟨[], Nat.zero_le 1, fun r l => by rw [List.append_nil, h]⟩

/-! ### The engine's steps -/

theorem hold_ignoresUnread : IgnoresUnread fun s => s := fun _ _ _ => rfl

theorem complete_ignoresUnread (c : Result) (v m : Bool) : IgnoresUnread (complete c v m) :=
  fun _ _ _ => rfl

theorem raise_ignoresUnread (f : Fault) : IgnoresUnread (State.raise f) := fun _ _ _ => rfl

theorem terminal_withUnread {c : Result} {v m : Bool} {r : List Action} {l : List TxEvent}
    {t t' : State} (h : t' = t.withUnread r l) :
    terminal c v m t' = (terminal c v m t).withUnread r l := by
  subst h
  cases hp : t.params.remainderPolicy <;> simp only [terminal, State.withUnread, hp]
  rfl

theorem popOr_ignoresUnread {empty : State → State} {go : Byte → State → State}
    (he : IgnoresUnread empty) (hg : ∀ b, IgnoresUnread (go b)) :
    IgnoresUnread fun s => s.popOr (empty s) go := by
  intro r l s
  dsimp only
  cases hq : s.rxq with
  | nil => rw [popOr_nil _ _ hq, popOr_nil (s := s.withUnread r l) _ _ hq, he]
  | cons b q =>
    rw [popOr_cons _ _ hq, popOr_cons (s := s.withUnread r l) _ _ hq]
    exact hg b r l { s with rxq := q }

theorem csumStep_ignoresUnread (g : Byte → Bool) : IgnoresUnread (csumStep g) := by
  intro r l s
  have hp : (s.withUnread r l).txPayload (s.withUnread r l).txLen = s.txPayload s.txLen := rfl
  refine withUnread_ite rfl ?_
  rw [hp]
  cases s.txPayload s.txLen <;> rfl

theorem checksumPhase_ignoresUnread : IgnoresUnread fun s =>
    if s.op = .csumValidate then csumValidateStep s else csumComputeStep s :=
  fun r l s => withUnread_ite (csumStep_ignoresUnread _ r l s) (csumStep_ignoresUnread _ r l s)

theorem rxHuntStep_ignoresUnread : IgnoresUnread rxHuntStep :=
  popOr_ignoresUnread (complete_ignoresUnread _ _ _) fun _ _ _ _ => withUnread_ite rfl rfl

theorem rxSync1Step_ignoresUnread : IgnoresUnread rxSync1Step :=
  popOr_ignoresUnread (complete_ignoresUnread _ _ _) fun _ _ _ _ =>
    withUnread_ite rfl (withUnread_ite rfl rfl)

theorem rxVerStep_ignoresUnread : IgnoresUnread rxVerStep :=
  popOr_ignoresUnread hold_ignoresUnread fun _ _ _ _ => rfl

theorem rxCmdStep_ignoresUnread : IgnoresUnread rxCmdStep :=
  popOr_ignoresUnread hold_ignoresUnread fun _ _ _ _ => rfl

theorem rxLenHStep_ignoresUnread : IgnoresUnread rxLenHStep :=
  popOr_ignoresUnread hold_ignoresUnread fun _ _ _ _ => rfl

theorem rxLenLStep_ignoresUnread : IgnoresUnread rxLenLStep :=
  popOr_ignoresUnread hold_ignoresUnread fun _ _ _ _ =>
    withUnread_ite (terminal_withUnread rfl) (withUnread_ite rfl rfl)

theorem rxPayStep_ignoresUnread : IgnoresUnread rxPayStep :=
  popOr_ignoresUnread hold_ignoresUnread fun _ _ _ _ => withUnread_ite rfl rfl

theorem rxCsumStep_ignoresUnread : IgnoresUnread rxCsumStep :=
  popOr_ignoresUnread hold_ignoresUnread fun _ _ _ _ =>
    withUnread_ite (terminal_withUnread rfl) (terminal_withUnread rfl)

theorem rxDrainStep_ignoresUnread : IgnoresUnread rxDrainStep :=
  popOr_ignoresUnread (fun _ _ _ => rfl) fun _ _ _ _ => rfl

theorem txStartStep_ignoresUnread : IgnoresUnread txStartStep :=
  fun _ _ _ => withUnread_ite rfl rfl

theorem txAccepted_withUnread (b : Byte) (r : List Action) (l : List TxEvent) (s : State) :
    txAccepted b (s.withUnread r l) = (txAccepted b s).withUnread r (l ++ [.byte b]) := by
  by_cases hsum : 2 ≤ s.idx.toNat ∧ s.idx.toNat ≤ 5 + s.len.toNat <;>
  by_cases hend : s.idx.toNat = 6 + s.len.toNat <;>
    simp [txAccepted, State.withUnread, State.emit, State.addAcc, hsum, hend]

/-- An offer appends the accepted byte and nothing else (R53). -/
theorem txEmitStep_appends (a : SinkAnswer) (s : State) : AppendsAtMostOne (txEmitStep a) s := by
  simp only [AppendsAtMostOne, txEmitStep, withUnread_offered]
  cases s.offered with
  | error f => exact (raise_ignoresUnread f).appends s
  | ok b =>
    cases a with
    | accept => exact ⟨[.byte b], Nat.le_refl 1, fun r l => txAccepted_withUnread b r l s⟩
    | reject => exact (complete_ignoresUnread _ _ _).appends s
    | wait => exact hold_ignoresUnread.appends s

theorem phaseStep_appends (a : SinkAnswer) (s : State) : AppendsAtMostOne (phaseStep a) s := by
  cases hp : s.phase <;> simp only [AppendsAtMostOne, phaseStep, withUnread_phase, hp]
  case idle => exact hold_ignoresUnread.appends s
  case cs => exact checksumPhase_ignoresUnread.appends s
  case rxHunt => exact rxHuntStep_ignoresUnread.appends s
  case rxSync1 => exact rxSync1Step_ignoresUnread.appends s
  case rxVer => exact rxVerStep_ignoresUnread.appends s
  case rxCmd => exact rxCmdStep_ignoresUnread.appends s
  case rxLenH => exact rxLenHStep_ignoresUnread.appends s
  case rxLenL => exact rxLenLStep_ignoresUnread.appends s
  case rxPay => exact rxPayStep_ignoresUnread.appends s
  case rxCsum => exact rxCsumStep_ignoresUnread.appends s
  case rxDrain => exact rxDrainStep_ignoresUnread.appends s
  case txStart => exact txStartStep_ignoresUnread.appends s
  case txEmit => exact txEmitStep_appends a s
  case txFlush => exact ⟨[.flush], Nat.le_refl 1, fun _ _ => rfl⟩

theorem engineTurn_appends (a : SinkAnswer) (s : State) : AppendsAtMostOne (engineTurn a) s := by
  have he (r l) : (s.withUnread r l).engineEnabled = s.engineEnabled := rfl
  simp only [AppendsAtMostOne, engineTurn, he]
  split
  · exact phaseStep_appends a s
  · exact hold_ignoresUnread.appends s

/-! ### The other agents' actions -/

theorem hostRead_ignoresUnread (a : Addr) : IgnoresUnread (hostRead a) := by
  intro r l s
  simp only [hostRead, withUnread_memRead]
  cases memRead a s <;> rfl

theorem operandWrite_ignoresUnread {go : State → State} (h : IgnoresUnread go) :
    IgnoresUnread (operandWrite go) :=
  fun r l s => withUnread_ite rfl (h r l s)

theorem registerWrite_ignoresUnread (a : Addr) (v : Byte) : IgnoresUnread (registerWrite a v) := by
  intro r l s
  unfold registerWrite
  split
  case h_6 => exact withUnread_ite (operandWrite_ignoresUnread (fun _ _ _ => rfl) r l s) rfl
  all_goals exact operandWrite_ignoresUnread (fun _ _ _ => rfl) r l s

theorem rxArrive_ignoresUnread (b : Byte) : IgnoresUnread (rxArrive b) := by
  intro r l s
  cases hc : s.params.rxSourceCapacity with
  | none => simp only [rxArrive, State.withUnread, hc]
  | some n =>
    simp only [rxArrive, State.withUnread, hc]
    exact withUnread_ite rfl rfl

theorem resetFce_ignoresUnread : IgnoresUnread resetFce := fun _ _ _ => rfl

/-- A CTRL write answers alike whatever the agenda and TXLOG hold. -/
theorem exec_withUnread (i : Instr) {s : State} (hf : s.fault = none) :
    ∃ t : State, ∀ r l, exec i (s.withUnread r l) = .next (t.withUnread r l) := by
  have key {go : State → State} (h : IgnoresUnread go) :
      ∃ t : State, ∀ r l, ctrlWrite go (s.withUnread r l) = .next (t.withUnread r l) :=
    ⟨if s.status.busy then dropWrite s else go s,
      fun r l => ctrlWrite_next.2 ⟨hf, (withUnread_ite rfl (h r l s)).symm⟩⟩
  cases i <;> exact key fun _ _ _ => rfl

/-- From `s`, `a` answers the same and appends the same events whatever the agenda and TXLOG hold: at most one
event, and none unless it is the engine's. -/
def ActsAlike (a : Action) (s : State) : Prop :=
  ∃ (t : State) (e : List TxEvent), e.length ≤ 1 ∧ (isEngineAction a = false → e = []) ∧
    ∀ r l, act a (s.withUnread r l) = .next (t.withUnread r (l ++ e))

theorem ActsAlike.of_silent {a : Action} {s t : State}
    (h : ∀ r l, act a (s.withUnread r l) = .next (t.withUnread r l)) : ActsAlike a s :=
  ⟨t, [], Nat.zero_le 1, fun _ => rfl, fun r l => by rw [List.append_nil, h]⟩

theorem act_alike (a : Action) {s : State} (hf : s.fault = none) : ActsAlike a s := by
  cases a with
  | hostRead a => exact .of_silent fun r l => congrArg _ (hostRead_ignoresUnread a r l s)
  | hostWrite a v =>
    by_cases h0 : a = 0x000
    · subst h0
      obtain ⟨t, ht⟩ := exec_withUnread (decodeCtrl v) hf
      exact .of_silent ht
    · refine .of_silent (t := registerWrite a v s) fun r l => ?_
      rw [hostWrite_notCtrl h0, registerWrite_ignoresUnread]
  | reset => exact .of_silent fun r l => congrArg _ (resetFce_ignoresUnread r l s)
  | arrive b => exact .of_silent fun r l => congrArg _ (rxArrive_ignoresUnread b r l s)
  | engine ans =>
    obtain ⟨e, hlen, he⟩ := engineTurn_appends ans s
    exact ⟨engineTurn ans s, e, hlen, nofun, fun r l => congrArg _ (he r l)⟩

/-- Settles O20: the action's answer and events, with the state's own agenda and the given log. -/
theorem transmitLogIsAppendOnlyAndUnread : Obligations.TransmitLogIsAppendOnlyAndUnread := by
  intro a s hf
  obtain ⟨t, e, hlen, hengine, h⟩ := act_alike a hf
  exact ⟨{ t with agenda := s.agenda }, e, hlen, hengine, h s.agenda⟩

/-! ### Turns scheduled on the agenda (log entry 3) -/

theorem engineTurn_agenda (a : SinkAnswer) (r : List Action) (s : State) :
    engineTurn a { s with agenda := r } = { engineTurn a s with agenda := r } := by
  obtain ⟨e, -, h⟩ := engineTurn_appends a s
  have hlog : (engineTurn a s).txlog = s.txlog ++ e := congrArg State.txlog (h s.agenda s.txlog)
  calc engineTurn a { s with agenda := r }
      = (engineTurn a s).withUnread r (s.txlog ++ e) := h r s.txlog
    _ = { engineTurn a s with agenda := r } := by rw [← hlog]; rfl

theorem engineRun_faulted {s : State} (h : s.fault ≠ none) (as : List SinkAnswer) :
    engineRun as s = s := by
  induction as with
  | nil => rfl
  | cons a as ih => rw [engineRun_cons, engineTurn_faulted h, ih]

/-- A run that ends without a fault started without one. -/
theorem fault_none_of_engineRun {as : List SinkAnswer} {s : State}
    (h : (engineRun as s).fault = none) : s.fault = none := by
  by_contra hf
  exact hf (by rwa [engineRun_faulted hf] at h)

theorem core_run_succ {M : Host.Core} {s t : M.State} (h : M.step s = .next t) (k : Nat) :
    M.run (k + 1) s = M.run k t := by
  simp only [Host.Core.run, h]

/-- Settles O8, by induction on the answers: each step takes the turn at the head of the agenda, and the
turn does not read what is left of it. -/
theorem scheduledTurnsRunTheEngine : Obligations.ScheduledTurnsRunTheEngine := by
  intro answers
  induction answers with
  | nil => intro s rest _; rfl
  | cons a as ih =>
    intro s rest hf
    have h0 : s.fault = none := fault_none_of_engineRun (s := { s with agenda := rest }) hf
    rw [engineRun_cons, engineTurn_agenda] at hf ⊢
    have hstep : step { s with agenda := .engine a :: (as.map Action.engine ++ rest) } =
        .next { engineTurn a s with agenda := as.map Action.engine ++ rest } :=
      (step_scheduled (s := { s with agenda := .engine a :: (as.map Action.engine ++ rest) }) h0
        rfl).trans (congrArg _ (engineTurn_agenda a _ s))
    exact (core_run_succ (M := Sys2Proof.core) hstep as.length).trans (ih _ rest hf)

end Sys2Proof.Machine
end

section
/-! SUPPORT. The CTRL word's decoder against its encoder (30_encoding R69-R71), with the obligations about it. -/

namespace Sys2Proof.Machine

open Sys2Proof

/-! ### The byte's two fields (R69) -/

@[simp] theorem ctrlOp_toNat (v : Byte) : (ctrlOp v).toNat = v.toNat % 8 := by
  simp [ctrlOp, BitVec.extractLsb'_toNat]

@[simp] theorem ctrlRsv_toNat (v : Byte) : (ctrlRsv v).toNat = v.toNat / 8 := by
  have := v.isLt
  simp only [ctrlRsv, BitVec.extractLsb'_toNat, Nat.shiftRight_eq_div_pow]
  omega

theorem ctrlRsv_eq_zero_iff {v : Byte} : ctrlRsv v = 0 ↔ v.toNat < 8 := by
  rw [← BitVec.toNat_inj, ctrlRsv_toNat]
  simp only [BitVec.ofNat_eq_ofNat, BitVec.toNat_ofNat]
  omega

/-! ### Decoding, byte by byte (R70, R71) -/

/-- The five bytes of the operation map (R70). -/
theorem ctrlByte_legal_cases {v : Byte} (h : 1 ≤ v.toNat ∧ v.toNat ≤ 5) :
    v = 0x01 ∨ v = 0x02 ∨ v = 0x03 ∨ v = 0x04 ∨ v = 0x05 := by
  bv_omega

theorem decodeCtrl_illegal {v : Byte} (h : ¬ (1 ≤ v.toNat ∧ v.toNat ≤ 5)) :
    decodeCtrl v = .illegal v := by
  unfold decodeCtrl
  split
  next hrsv =>
    have hlt := ctrlRsv_eq_zero_iff.1 hrsv
    have hop : (ctrlOp v).toNat = v.toNat := by rw [ctrlOp_toNat, Nat.mod_eq_of_lt hlt]
    rw [hop]
    split
    case h_6 => rfl
    all_goals omega
  next => rfl

theorem decodeCtrl_eq_illegal_iff {v : Byte} :
    decodeCtrl v = .illegal v ↔ ¬ (1 ≤ v.toNat ∧ v.toNat ≤ 5) := by
  refine ⟨fun h hv => ?_, decodeCtrl_illegal⟩
  rcases ctrlByte_legal_cases hv with rfl | rfl | rfl | rfl | rfl <;> cases h

theorem illegal_wf_iff {v : Byte} :
    (Instr.illegal v).wf = true ↔ ¬ (1 ≤ v.toNat ∧ v.toNat ≤ 5) := by
  simp only [Instr.wf, decide_eq_true_eq]
  omega

/-! ### Decoder and encoder undo each other -/

theorem decodeCtrl_ctrlByte {i : Instr} (h : i.wf = true) : decodeCtrl (ctrlByte i) = i := by
  cases i with
  | illegal v => exact decodeCtrl_illegal (illegal_wf_iff.1 h)
  | csumCompute | csumValidate | decode | encode | encodeEmpty => rfl

theorem ctrlByte_decodeCtrl (v : Byte) : ctrlByte (decodeCtrl v) = v := by
  by_cases hv : 1 ≤ v.toNat ∧ v.toNat ≤ 5
  · rcases ctrlByte_legal_cases hv with rfl | rfl | rfl | rfl | rfl <;> rfl
  · rw [decodeCtrl_illegal hv, ctrlByte]

/-- A CTRL word is one byte (R69), so reading it leaves what follows. -/
theorem decode_encode_append (i : Instr) (rest : List Byte) :
    decode (encode i ++ rest) = .ok (decodeCtrl (ctrlByte i), rest) := rfl

/-- Settles O3: a word is one byte, and on one byte the decoder and the encoder undo each other (the one
illegal constructor carries its byte, log entry 8). -/
theorem ctrlEncodeAndDecodeAgree : Obligations.CtrlEncodeAndDecodeAgree :=
  ⟨fun i rest h => by rw [decode_encode_append, decodeCtrl_ctrlByte h],
    fun v => ⟨decodeCtrl_wf v, by rw [encode, ctrlByte_decodeCtrl]⟩⟩

/-- Settles O1: the eight words with RSV = 00000 by evaluation, every byte outside 0x01-0x05 by
`decodeCtrl_illegal`. -/
theorem ctrlWordsDecodeAsTheMapSays : Obligations.CtrlWordsDecodeAsTheMapSays :=
  ⟨rfl, rfl, rfl, rfl, rfl, rfl, rfl, rfl, fun v h => by rw [decode, decodeCtrl_illegal h]⟩

/-! ### The write of an illegal byte (R71, 40_control R75, R76) -/

theorem illegalWrite_idle {s : State} (hb : s.status.busy = false) :
    illegalWrite s = { s with status := ⟨false, false, false, false, .illegalOp⟩ } := by
  rw [illegalWrite, statusIllegal, hb]

theorem exec_illegal (v : Byte) {s : State} (hf : s.fault = none) :
    exec (.illegal v) s = .next (if s.status.busy then dropWrite s else illegalWrite s) :=
  ctrlWrite_next.2 ⟨hf, rfl⟩

/-- Settles O2: the illegal bytes are those outside 0x01-0x05, and their write runs `illegal`, which drops
or reports. -/
theorem illegalCtrlBytesAreTheRest : Obligations.IllegalCtrlBytesAreTheRest := by
  intro v
  refine ⟨?_, ?_, fun h s hf => ?_⟩
  · rw [decodeCtrl_eq_illegal_iff]
    bv_omega
  · rw [decodeCtrl_eq_illegal_iff]
    exact (em _).symm
  · rw [hostWrite_ctrl, h, exec_illegal v hf]
    cases hb : s.status.busy with
    | true => rfl
    | false => exact congrArg _ (illegalWrite_idle hb)

end Sys2Proof.Machine
end

section
/-! SUPPORT. A frame's wire bytes by position (30_encoding R61, 43_frame_encode R109), with the obligation it
settles. -/

namespace Sys2Proof.Machine

open Sys2Proof

/-- Six header bytes, then the payload and the checksum (R61). -/
theorem frameBytes_eq (p : Params) (f : Frame) :
    frameBytes p f =
      0x55 :: 0xAA :: f.version :: f.command :: hiByte (BitVec.ofNat 16 f.payload.length) ::
        loByte (BitVec.ofNat 16 f.payload.length) :: (f.payload ++ [frameChecksum p f]) := rfl

theorem frameBytes_length (p : Params) (f : Frame) :
    (frameBytes p f).length = 7 + f.payload.length := by
  simp only [frameBytes_eq, List.length_cons, List.length_append, List.length_nil]
  omega

theorem frameBytes_getElem?_add_six (p : Params) (f : Frame) (n : Nat) :
    (frameBytes p f)[n + 6]? = (f.payload ++ [frameChecksum p f])[n]? := rfl

theorem frameByte_add_six (p : Params) (f : Frame) (n : Nat) :
    frameByte p f (n + 6) = f.payload.getD n (frameChecksum p f) := rfl

/-- A list with one more element at its end, read at a position of either. -/
theorem getElem?_append_singleton {α : Type} {l : List α} {n : Nat} (a : α) (h : n ≤ l.length) :
    (l ++ [a])[n]? = some (l.getD n a) := by
  rcases Nat.lt_or_eq_of_le h with hlt | rfl
  · rw [List.getElem?_append_left hlt, List.getD_eq_getElem l a hlt, List.getElem?_eq_getElem hlt]
  · rw [List.getElem?_concat_length, List.getD_eq_default l a (Nat.le_refl _)]

/-- Position k of the wire bytes is FrameByte(k) (R109). -/
theorem frameBytes_getElem?_eq_frameByte (p : Params) (f : Frame) {k : Nat}
    (hk : k ≤ 6 + f.payload.length) : (frameBytes p f)[k]? = some (frameByte p f k) := by
  match k with
  | 0 | 1 | 2 | 3 | 4 | 5 => rfl
  | n + 6 =>
    have hn : n ≤ f.payload.length := by omega
    rw [frameBytes_getElem?_add_six, getElem?_append_singleton _ hn, frameByte_add_six]

/-- A well-formed frame's length fits its two length bytes (R61). -/
theorem frameLength_toNat {f : Frame} (h : f.wf = true) :
    (BitVec.ofNat 16 f.payload.length).toNat = f.payload.length := by
  have := frame_wf_iff.1 h
  rw [BitVec.toNat_ofNat]
  omega

/-- Settles O28: the header's positions by `frameBytes_eq`, the rest as positions of the payload with the
checksum at its end. -/
theorem frameBytesFollowTheLayout : Obligations.FrameBytesFollowTheLayout := by
  intro p f h
  refine ⟨frameBytes_length p f, rfl, rfl, rfl, rfl, ?_, ?_, fun i hi => ?_, ?_,
    fun k hk => frameBytes_getElem?_eq_frameByte p f hk⟩
  · calc ((frameBytes p f)[4]?).map BitVec.toNat
        = some (hiByte (BitVec.ofNat 16 f.payload.length)).toNat := rfl
      _ = some (f.payload.length / 256) := by rw [hiByte_toNat, frameLength_toNat h]
  · calc ((frameBytes p f)[5]?).map BitVec.toNat
        = some (loByte (BitVec.ofNat 16 f.payload.length)).toNat := rfl
      _ = some (f.payload.length % 256) := by rw [loByte_toNat, frameLength_toNat h]
  · rw [Nat.add_comm 6, frameBytes_getElem?_add_six, List.getElem?_append_left hi]
  · rw [Nat.add_comm 6, frameBytes_getElem?_add_six, List.getElem?_concat_length]

end Sys2Proof.Machine
end

section
/-! SUPPORT. CTRL writes and STATUS (40_control R74-R80): what a write does by BUSY, when an engine turn changes
STATUS, and that each action answers, with the obligations about them. -/

namespace Sys2Proof.Machine

open Sys2Proof

/-! ### CTRL writes by BUSY (R74-R77) -/

theorem ctrlWrite_busy {s : State} (hf : s.fault = none) (hb : s.status.busy = true)
    (go : State → State) : ctrlWrite go s = .next (dropWrite s) :=
  ctrlWrite_next.2 ⟨hf, by rw [hb, if_pos rfl]⟩

theorem ctrlWrite_idle {s : State} (hf : s.fault = none) (hb : s.status.busy = false)
    (go : State → State) : ctrlWrite go s = .next (go s) :=
  ctrlWrite_next.2 ⟨hf, by rw [hb, if_neg Bool.false_ne_true]⟩

/-- exec is a CTRL write whichever the instruction (R74). -/
theorem exec_eq_ctrlWrite (i : Instr) (s : State) : ∃ go, exec i s = ctrlWrite go s := by
  cases i <;> exact ⟨_, rfl⟩

theorem exec_busy {s : State} (hf : s.fault = none) (hb : s.status.busy = true) (i : Instr) :
    exec i s = .next (dropWrite s) := by
  obtain ⟨go, h⟩ := exec_eq_ctrlWrite i s
  rw [h, ctrlWrite_busy hf hb]

/-! ### Each action answers (R80) -/

theorem exec_answers {s : State} (hf : s.fault = none) (i : Instr) : ∃ t, exec i s = .next t := by
  obtain ⟨go, h⟩ := exec_eq_ctrlWrite i s
  exact ⟨_, h.trans (ctrlWrite_next.2 ⟨hf, rfl⟩)⟩

theorem act_answers {s : State} (hf : s.fault = none) (a : Action) : ∃ t, act a s = .next t := by
  cases a with
  | hostWrite a v =>
    by_cases ha : a = 0x000
    · subst ha
      exact exec_answers hf (decodeCtrl v)
    · exact ⟨_, hostWrite_notCtrl ha v s⟩
  | hostRead | reset | arrive | engine => exact ⟨_, rfl⟩

/-! ### When an engine turn changes STATUS (R78, R46) -/

/-- STATUS is as before, or the operation has ended with REQ_DROPPED kept. -/
def KeepsStatusOrEnds (s t : State) : Prop :=
  t.status = s.status ∨
  (t.status.busy = false ∧ t.op = .none ∧ t.phase = .idle ∧
    t.status.reqDropped = s.status.reqDropped)

theorem complete_keepsStatusOrEnds (c : Result) (v m : Bool) (s : State) :
    KeepsStatusOrEnds s (complete c v m s) :=
  .inr ⟨rfl, rfl, rfl, rfl⟩

theorem terminal_keepsStatusOrEnds (c : Result) (v m : Bool) (s : State) :
    KeepsStatusOrEnds s (terminal c v m s) := by
  rcases terminal_cases c v m s with ⟨-, h⟩ | ⟨-, h⟩ <;> rw [h]
  · exact complete_keepsStatusOrEnds c v m s
  · exact .inl rfl

theorem TurnEffect.keepsStatusOrEnds {s t : State} (h : TurnEffect s t) :
    KeepsStatusOrEnds s t := by
  cases h with
  | csumTooLarge | csumDone | noData | drainEnd | txTooLarge | txReject | txFlush =>
    exact complete_keepsStatusOrEnds _ _ _ _
  | overflow | csumOk | csumWrong => exact terminal_keepsStatusOrEnds _ _ _ _
  | txAccept b => exact .inl (txAccepted_status b s)
  | _ => exact .inl rfl

/-! ### The obligations -/

/-- Settles O11: exec drops while BUSY, and so does an operand's write; elsewhere a write is the identity. -/
theorem writesWhileBusyAreDropped : Obligations.WritesWhileBusyAreDropped := by
  intro s v hf hb
  refine ⟨exec_busy hf hb, fun a ha => ?_, fun a h0 ha => hostWrite_notOperand h0 ha v s⟩
  rcases ha with rfl | ha
  · exact exec_busy hf hb (decodeCtrl v)
  · exact (hostWrite_notCtrl (ne_ctrl_of_operand ha) v s).trans
      (congrArg _ (registerWrite_busy ha hb v))

/-- Settles O12, outcome by outcome of the turn. -/
theorem statusChangesOnlyAtCompletion : Obligations.StatusChangesOnlyAtCompletion :=
  fun a s => (engineTurn_effect a s).keepsStatusOrEnds

/-- Settles O7: each action answers, and so `step` does for the action it chooses. -/
theorem everyActionIsAnswered : Obligations.EveryActionIsAnswered := by
  intro s hf
  obtain ⟨t, ht⟩ := act_answers (s := s.chosen) (by rwa [chosen_fault]) s.nextAction
  exact ⟨act_answers hf, t, step_next.2 ⟨hf, ht⟩⟩

/-- Settles O9: each operation's CTRL write is its `accept` while BUSY = 0. -/
theorem acceptStartsTheOperation : Obligations.AcceptStartsTheOperation := by
  intro s hf hb
  have accepts (o : Operation) : ctrlWrite (accept o) s = .next (accept o s) :=
    ctrlWrite_idle hf hb _
  exact ⟨accepts .csumCompute, accepts .csumValidate, accepts .decode, accepts .encode,
    accepts .encodeEmpty, rfl⟩

/-- Settles O10: while BUSY = 0 the byte's write is `illegalWrite`. -/
theorem illegalWriteReportsIllegalOp : Obligations.IllegalWriteReportsIllegalOp := by
  intro s v hf hb
  refine ⟨?_, rfl⟩
  calc exec (.illegal v) s = .next (illegalWrite s) := ctrlWrite_idle hf hb illegalWrite
    _ = _ := congrArg _ (illegalWrite_idle hb)

end Sys2Proof.Machine
end

section
/-! SUPPORT. The control invariant under every step (10_state R25, R33-R38; 40_control R77-R80): BUSY, op and
phase move together, the flags change when an operation ends, and the counters stay in range; with the
obligation this settles. -/

namespace Sys2Proof.Machine

open Sys2Proof

/-! ### Op and phase (10_state R33, R34) -/

/-- The phase that the operations of phase `p` start in (40_control R77). -/
def Phase.entry : Phase → Phase
  | .idle => .idle
  | .cs => .cs
  | .rxHunt => .rxHunt
  | .rxSync1 => .rxHunt
  | .rxVer => .rxHunt
  | .rxCmd => .rxHunt
  | .rxLenH => .rxHunt
  | .rxLenL => .rxHunt
  | .rxPay => .rxHunt
  | .rxCsum => .rxHunt
  | .rxDrain => .rxHunt
  | .txStart => .txStart
  | .txEmit => .txStart
  | .txFlush => .txStart

theorem phaseFits_iff {o : Operation} {p : Phase} :
    phaseFits o p = true ↔ p.entry = startPhase o := by
  cases o <;> cases p <;> decide

theorem entry_eq_idle_iff {p : Phase} : p.entry = .idle ↔ p = .idle := by
  cases p <;> decide

theorem startPhase_eq_idle_iff {o : Operation} : startPhase o = .idle ↔ o = .none := by
  cases o <;> decide

/-! ### The flags (10_state R25) -/

/-- Between phases of one operation the flags stay as they are. -/
theorem FlagInv.move {s t : State} {p : Phase} (h : FlagInv s) (hp : s.phase = p)
    (he : t.phase.entry = p.entry) (hst : t.status = s.status) (hop : t.op = s.op) :
    FlagInv t := by
  rw [← hp] at he
  have hidle : t.phase = .idle ↔ s.phase = .idle := by
    rw [← entry_eq_idle_iff, he, entry_eq_idle_iff]
  obtain ⟨hbusy, hfits, hflags⟩ := h
  refine ⟨?_, ?_, ?_⟩
  · rw [hst, hbusy, ne_eq, ne_eq, hidle]
  · rw [phaseFits_iff, he, hop]
    exact phaseFits_iff.1 hfits
  · rwa [hst]

/-- A pending result's flags agree with its code (R25). -/
def FlagsAgree (p : Pending) : Prop :=
  (p.valid = true → p.code = .ok ∧ p.csumMatch = true) ∧ (p.csumMatch = true → p.code = .ok)

theorem flagsAgree_of_terminalResult {p : Pending} (h : terminalResult p = true) :
    FlagsAgree p := by
  simp only [terminalResult, Bool.or_eq_true, decide_eq_true_eq] at h
  obtain (rfl | rfl) | rfl := h <;> simp [FlagsAgree]

theorem complete_flagInv {s : State} {c : Result} {v m : Bool} (h : FlagsAgree ⟨c, v, m⟩) :
    FlagInv (complete c v m s) := by
  obtain ⟨hv, hm⟩ := h
  exact ⟨⟨nofun, fun h => absurd rfl h⟩, rfl, nofun, hv, hm⟩

theorem terminal_flagInv {s : State} {p : Phase} {c : Result} {v m : Bool} (h : FlagInv s)
    (hp : s.phase = p) (he : p.entry = .rxHunt) (hr : terminalResult ⟨c, v, m⟩ = true) :
    FlagInv (terminal c v m s) := by
  rcases terminal_cases c v m s with ⟨-, ht⟩ | ⟨-, ht⟩ <;> rw [ht]
  · exact complete_flagInv (flagsAgree_of_terminalResult hr)
  · exact h.move hp he.symm rfl rfl

@[simp] theorem txAccepted_op (b : Byte) (s : State) : (txAccepted b s).op = s.op := by
  unfold txAccepted
  dsimp only
  split <;> split <;> rfl

theorem txAccepted_flagInv {s : State} (h : FlagInv s) (hp : s.phase = .txEmit) (b : Byte) :
    FlagInv (txAccepted b s) := by
  refine h.move hp ?_ (txAccepted_status b s) (txAccepted_op b s)
  rcases txAccepted_phase hp b with he | he <;> simp only [he, Phase.entry]

theorem TurnEffect.flagInv {s t : State} (h : TurnEffect s t) (hflag : FlagInv s)
    (hrange : RangeInv s) : FlagInv t := by
  cases h with
  | hold | csumFault | payload | drain | txFault => exact hflag
  | csumTooLarge | noData | txTooLarge | txReject | txFlush =>
    exact complete_flagInv ⟨nofun, nofun⟩
  | csumDone => exact complete_flagInv ⟨nofun, fun _ => rfl⟩
  | search _ _ _ hp _ hp' =>
    rcases hp with hp | hp <;> rcases hp' with rfl | rfl <;> exact hflag.move hp rfl rfl rfl
  | marker _ hp | txStart hp => exact hflag.move hp rfl rfl rfl
  | version _ _ hp | command _ _ hp | lenHi _ _ hp | lenZero _ _ _ hp | lenOk _ _ _ hp
  | payloadEnd _ _ hp => exact hflag.move hp rfl rfl rfl
  | overflow _ _ _ hp | csumOk _ _ hp | csumWrong _ _ hp =>
    exact terminal_flagInv hflag hp rfl rfl
  | drainEnd hp =>
    obtain ⟨-, -, -, hdrain⟩ := hrange
    exact complete_flagInv (flagsAgree_of_terminalResult (hdrain hp).2)
  | txAccept b hp => exact txAccepted_flagInv hflag hp b

/-! ### The counters and the pending result (10_state R36-R38) -/

theorem terminal_rangeInv {s : State} {c : Result} {v m : Bool}
    (hr : terminalResult ⟨c, v, m⟩ = true) : RangeInv (terminal c v m s) := by
  rcases terminal_cases c v m s with ⟨-, ht⟩ | ⟨hpol, ht⟩ <;> rw [ht]
  · exact ⟨nofun, nofun, nofun, nofun⟩
  · exact ⟨nofun, nofun, nofun, fun _ => ⟨hpol, hr⟩⟩

/-- The payload's last byte ends RX_PAY, so `idx` stays below `len` there (42_frame_decode R97). -/
theorem payload_index_lt {i : FrameIndex} {len : U16} (hlt : i.toNat < len.toNat)
    (hlen : len.toNat ≤ 1024) (hne : i.toNat + 1 ≠ len.toNat) : (i + 1).toNat < len.toNat := by
  bv_omega

/-- The checksum's position ends TX_EMIT, so `idx` passes it nowhere (43_frame_encode R113). -/
theorem txAccepted_rangeInv {s : State} (h : RangeInv s) (hp : s.phase = .txEmit) (b : Byte) :
    RangeInv (txAccepted b s) := by
  obtain ⟨-, -, hemit, -⟩ := h
  obtain ⟨hidx, hlen⟩ := hemit hp
  rcases Nat.lt_or_eq_of_le hidx with hlt | heq
  · rw [txAccepted_before hlt]
    have hnext : (s.idx + 1).toNat ≤ 6 + s.len.toNat := by bv_omega
    refine ⟨?_, ?_, fun _ => ⟨hnext, hlen⟩, ?_⟩ <;> simp [hp]
  · rw [txAccepted_last heq]
    exact ⟨nofun, nofun, nofun, nofun⟩

theorem TurnEffect.rangeInv {s t : State} (h : TurnEffect s t) (hrange : RangeInv s) :
    RangeInv t := by
  cases h with
  | hold | csumFault | drain | txFault => exact hrange
  | search _ _ _ _ _ hp' => rcases hp' with rfl | rfl <;> exact ⟨nofun, nofun, nofun, nofun⟩
  | overflow | csumOk | csumWrong => exact terminal_rangeInv rfl
  | lenZero _ _ _ _ _ _ h0 => exact ⟨nofun, fun _ => by simp [h0], nofun, nofun⟩
  | lenOk _ _ _ _ _ _ h0 hlen => exact ⟨fun _ => ⟨h0, hlen⟩, nofun, nofun, nofun⟩
  | payloadEnd _ _ hp =>
    obtain ⟨hpay, -⟩ := hrange
    exact ⟨nofun, fun _ => (hpay hp).2, nofun, nofun⟩
  | payload _ _ hp _ hne =>
    obtain ⟨hpay, -⟩ := hrange
    obtain ⟨hidx, hlen⟩ := hpay hp
    refine ⟨fun _ => ⟨payload_index_lt hidx hlen hne, hlen⟩, ?_, ?_, ?_⟩ <;> simp [hp]
  | txStart _ hlen => exact ⟨nofun, nofun, fun _ => ⟨Nat.zero_le _, hlen⟩, nofun⟩
  | txAccept b hp => exact txAccepted_rangeInv hrange hp b
  | _ => exact ⟨nofun, nofun, nofun, nofun⟩

/-! ### The control invariant under each agent's action -/

theorem engineTurn_controlInv (a : SinkAnswer) {s : State} (h : ControlInv s) :
    ControlInv (engineTurn a s) := by
  obtain ⟨hflag, hrange, hmem⟩ := h
  have e := engineTurn_effect a s
  exact ⟨e.flagInv hflag hrange, e.rangeInv hrange, e.wf_mem hmem⟩

/-- An operation starts with BUSY = 1 and the other flags 0, in a phase that counts nothing (40_control
R77). -/
theorem accept_controlInv {o : Operation} (ho : o ≠ .none) {s : State} (hmem : Memory.wf s.mem) :
    ControlInv (accept o s) := by
  have hfits : phaseFits o (startPhase o) = true := by cases o <;> rfl
  have hbusy : startPhase o ≠ .idle := fun h => ho (startPhase_eq_idle_iff.1 h)
  have hrange : RangeInv (accept o s) := by cases o <;> exact ⟨nofun, nofun, nofun, nofun⟩
  exact ⟨⟨⟨fun _ => hbusy, fun _ => rfl⟩, hfits, fun _ => ⟨rfl, rfl, rfl⟩, nofun, nofun⟩, hrange,
    hmem⟩

/-- ILLEGAL_OP clears every flag and leaves the engine idle (R76). -/
theorem illegalWrite_controlInv {s : State} (h : ControlInv s) (hb : s.status.busy = false) :
    ControlInv (illegalWrite s) := by
  obtain ⟨⟨hbusy, hfits, -⟩, hrest⟩ := h
  rw [illegalWrite_idle hb]
  rw [hb] at hbusy
  exact ⟨⟨hbusy, hfits, nofun, nofun, nofun⟩, hrest⟩

theorem exec_controlInv {i : Instr} {s t : State} (h : exec i s = .next t) (hc : ControlInv s) :
    ControlInv t := by
  obtain ⟨-, ⟨-, rfl⟩ | ⟨hb, ⟨o, ho, rfl⟩ | rfl⟩⟩ := exec_cases h
  · exact hc
  · obtain ⟨-, -, hmem⟩ := hc
    exact accept_controlInv ho hmem
  · exact illegalWrite_controlInv hc hb

/-- The operand registers are none of control, and a TX_BUF byte keeps the memory's form. -/
theorem OperandWritten.controlInv {s t : State} (h : OperandWritten s t) (hc : ControlInv s) :
    ControlInv t := by
  obtain ⟨hflag, hrange, hmem⟩ := hc
  have hmem' := h.wf_mem hmem
  obtain ⟨v, rfl⟩ | ⟨v, rfl⟩ | ⟨v, rfl⟩ | ⟨v, rfl⟩ | ⟨v, rfl⟩ | ⟨n, v, -, -, rfl⟩ := h <;>
    exact ⟨hflag, hrange, hmem'⟩

theorem registerWrite_controlInv (a : Addr) (v : Byte) {s : State} (hc : ControlInv s) :
    ControlInv (registerWrite a v s) := by
  rcases registerWrite_cases a v s with h | ⟨-, h⟩ | ⟨-, h⟩
  · rwa [h]
  · rw [h]; exact hc
  · exact h.controlInv hc

theorem hostRead_controlInv (a : Addr) {s : State} (hc : ControlInv s) :
    ControlInv (hostRead a s) := by
  rcases hostRead_cases a s with ⟨v, -, h⟩ | ⟨f, -, h⟩ <;> rw [h] <;> exact hc

theorem rxArrive_controlInv (b : Byte) {s : State} (hc : ControlInv s) :
    ControlInv (rxArrive b s) := by
  rcases rxArrive_cases b s with h | h <;> rw [h] <;> exact hc

theorem resetFce_controlInv (s : State) : ControlInv (resetFce s) :=
  ⟨⟨⟨nofun, fun h => absurd rfl h⟩, rfl, nofun, nofun, nofun⟩, ⟨nofun, nofun, nofun, nofun⟩,
    Memory.wf_nil⟩

theorem act_controlInv {a : Action} {s t : State} (h : act a s = .next t) (hc : ControlInv s) :
    ControlInv t := by
  obtain ⟨addr, -, rfl⟩ | ⟨v, -, hx⟩ | ⟨addr, v, -, -, rfl⟩ | ⟨-, rfl⟩ | ⟨b, -, rfl⟩ | ⟨ans, -, rfl⟩ :=
    act_cases h
  · exact hostRead_controlInv addr hc
  · exact exec_controlInv hx hc
  · exact registerWrite_controlInv addr v hc
  · exact resetFce_controlInv s
  · exact rxArrive_controlInv b hc
  · exact engineTurn_controlInv ans hc

/-! ### The obligation -/

/-- Settles O56: the action taken keeps the invariant, and the choice of it changes nothing there. -/
theorem stepKeepsTheControlInvariant : Obligations.StepKeepsTheControlInvariant := by
  intro s t hc h
  exact act_controlInv (step_next.1 h).2 (chosen_controlInv.2 hc)

end Sys2Proof.Machine
end

section
/-! SUPPORT. The transmit path's running sum under every step (41_checksum R85; 43_frame_encode R112, R113): an
accepted byte is summed exactly when it is a header or payload byte; with the obligation this settles. -/

namespace Sys2Proof.Machine

open Sys2Proof

/-! ### The sum before a position (R85) -/

/-- The four summed header bytes, at positions 2 to 5 (43_frame_encode R109). -/
def State.txHeader (s : State) : List Byte := [s.txVer, s.txCmd, hiByte s.len, loByte s.len]

/-- `acc` is the seed plus the summed bytes before position `n`, and the payload bytes among them are
written: what TransmitInv says of `idx`. -/
def SumsBefore (s : State) (n : Nat) (acc : Byte) : Prop :=
  ∃ P, Memory.readRun s.mem 0x800 (n - 6) = .ok P ∧
    acc = seed s.params + sum8 (s.txHeader.take (n - 2)) + sum8 P

theorem transmitInv_iff {s : State} : TransmitInv s ↔
    (s.phase = .txEmit → s.len = s.encodeLen ∧ SumsBefore s s.idx.toNat s.acc) := Iff.rfl

theorem sum8_take_succ {bs : List Byte} {k : Nat} {b : Byte} (h : bs[k]? = some b) :
    sum8 (bs.take (k + 1)) = sum8 (bs.take k) + b := by
  rw [List.take_add_one, h, sum8_append]
  simp

theorem offered_header {s : State} {k : Nat} {b : Byte} (hidx : s.idx.toNat = k + 2) (hk : k < 4)
    (ho : s.offered = .ok b) : s.txHeader[k]? = some b := by
  unfold State.offered at ho
  rw [hidx] at ho
  match k, hk with
  | 0, _ | 1, _ | 2, _ | 3, _ =>
    cases ho
    rfl

theorem read_of_offered_payload {s : State} {k : Nat} {b : Byte} (hidx : s.idx.toNat = k + 6)
    (hk : k < s.len.toNat) (hlen : s.len.toNat ≤ 1024) (ho : s.offered = .ok b) :
    Memory.read s.mem (0x800 + k) = some b := by
  have hbuf : (bufIndex k).toNat = k := by
    rw [bufIndex_toNat]
    omega
  rw [offered_payload (i := bufIndex k) (by omega) (by omega), txBufAddr, hbuf] at ho
  cases hr : Memory.read s.mem (0x800 + k) with
  | none => simp [hr, orUnwritten] at ho
  | some v => simpa [hr, orUnwritten] using ho

/-- The sync bytes are not summed, the header bytes and the payload bytes are (R85, R113). -/
theorem SumsBefore.succ {s : State} {n : Nat} {acc b : Byte} (h : SumsBefore s n acc)
    (hidx : s.idx.toNat = n) (hend : n < 6 + s.len.toNat) (hlen : s.len.toNat ≤ 1024)
    (ho : s.offered = .ok b) : SumsBefore s (n + 1) (if 2 ≤ n then acc + b else acc) := by
  obtain ⟨P, hrun, rfl⟩ := h
  match n with
  | 0 | 1 => exact ⟨P, hrun, rfl⟩
  | k + 2 =>
    rw [if_pos (Nat.le_add_left 2 k)]
    rcases lt_or_ge k 4 with hk | hk
    · have hb := offered_header hidx hk ho
      refine ⟨P, ?_, ?_⟩
      · rwa [show k + 2 + 1 - 6 = k + 2 - 6 by omega]
      · calc seed s.params + sum8 (s.txHeader.take k) + sum8 P + b
            = seed s.params + (sum8 (s.txHeader.take k) + b) + sum8 P := by ring
          _ = seed s.params + sum8 (s.txHeader.take (k + 1)) + sum8 P := by
            rw [sum8_take_succ hb]
    · obtain ⟨j, rfl⟩ := Nat.exists_eq_add_of_le' hk
      have hb := read_of_offered_payload hidx (by omega) hlen ho
      refine ⟨P ++ [b], Memory.readRun_succ_ok hrun hb, ?_⟩
      have hwhole (m : Nat) : s.txHeader.take (m + 4) = s.txHeader :=
        List.take_of_length_le (Nat.le_add_left 4 m)
      simp only [Nat.add_sub_cancel, hwhole, sum8_append, sum8_cons, sum8_nil]
      rw [show j + 4 + 2 + 1 - 2 = j + 1 + 4 by omega, hwhole]
      ring

/-! ### The transmit invariant under each agent's action -/

/-- Where no byte is offered, the invariant asks nothing. -/
theorem transmitInv_of_phase {s : State} (h : s.phase ≠ .txEmit) : TransmitInv s :=
  fun hp => absurd hp h

theorem terminal_transmitInv {s : State} (c : Result) (v m : Bool) :
    TransmitInv (terminal c v m s) := by
  rcases terminal_cases c v m s with ⟨-, h⟩ | ⟨-, h⟩ <;> rw [h] <;>
    exact transmitInv_of_phase nofun

theorem txAccepted_transmitInv {s : State} {b : Byte} (h : TransmitInv s) (hrange : RangeInv s)
    (hp : s.phase = .txEmit) (ho : s.offered = .ok b) : TransmitInv (txAccepted b s) := by
  obtain ⟨-, -, hemit, -⟩ := hrange
  obtain ⟨hidx, hlen⟩ := hemit hp
  obtain ⟨hl, hsum⟩ := transmitInv_iff.1 h hp
  rcases Nat.lt_or_eq_of_le hidx with hlt | heq
  · have hnext : (s.idx + 1).toNat = s.idx.toNat + 1 := by bv_omega
    have hsucc := hsum.succ rfl hlt hlen ho
    rw [← hnext] at hsucc
    rw [txAccepted_before hlt]
    exact transmitInv_iff.2 fun _ => ⟨hl, hsucc⟩
  · rw [txAccepted_last heq]
    exact transmitInv_of_phase nofun

/-- TX_START latches the length, with no byte summed yet (43_frame_encode R112). -/
theorem txStart_transmitInv (s : State) : TransmitInv
    { s with len := s.encodeLen, idx := 0, acc := seed s.params, phase := .txEmit } :=
  fun _ => ⟨rfl, [], rfl, by simp⟩

theorem TurnEffect.transmitInv {s t : State} (h : TurnEffect s t) (hrange : RangeInv s)
    (ht : TransmitInv s) : TransmitInv t := by
  cases h with
  | hold | csumFault | drain | txFault => exact ht
  | search _ _ _ _ _ hp => rcases hp with rfl | rfl <;> exact transmitInv_of_phase nofun
  | overflow | csumOk | csumWrong => exact terminal_transmitInv _ _ _
  | payload _ _ hp => exact transmitInv_of_phase (by simp [hp])
  | txStart => exact txStart_transmitInv s
  | txAccept b hp ho => exact txAccepted_transmitInv ht hrange hp ho
  | _ => exact transmitInv_of_phase nofun

/-- No operation starts by offering bytes (40_control R77). -/
theorem accept_transmitInv (o : Operation) (s : State) : TransmitInv (accept o s) := by
  cases o <;> exact transmitInv_of_phase nofun

theorem exec_transmitInv {i : Instr} {s t : State} (h : exec i s = .next t) (ht : TransmitInv s) :
    TransmitInv t := by
  obtain ⟨-, ⟨-, rfl⟩ | ⟨-, ⟨o, -, rfl⟩ | rfl⟩⟩ := exec_cases h
  · exact ht
  · exact accept_transmitInv o s
  · exact ht

/-- The host's operands are written only while nothing is transmitted (R75). -/
theorem registerWrite_transmitInv (a : Addr) (v : Byte) {s : State} (hflag : FlagInv s)
    (ht : TransmitInv s) : TransmitInv (registerWrite a v s) := by
  rcases registerWrite_cases a v s with h | ⟨-, h⟩ | ⟨hb, -⟩
  · rwa [h]
  · rw [h]; exact ht
  · obtain ⟨hp, -⟩ := registerWrite_engine_frame a v s
    exact transmitInv_of_phase (by simp [hp, phase_of_not_busy hflag hb])

theorem hostRead_transmitInv (a : Addr) {s : State} (ht : TransmitInv s) :
    TransmitInv (hostRead a s) := by
  rcases hostRead_cases a s with ⟨v, -, h⟩ | ⟨f, -, h⟩ <;> rw [h] <;> exact ht

theorem rxArrive_transmitInv (b : Byte) {s : State} (ht : TransmitInv s) :
    TransmitInv (rxArrive b s) := by
  rcases rxArrive_cases b s with h | h <;> rw [h] <;> exact ht

theorem act_transmitInv {a : Action} {s t : State} (h : act a s = .next t) (hc : ControlInv s)
    (ht : TransmitInv s) : TransmitInv t := by
  obtain ⟨hflag, hrange, -⟩ := hc
  obtain ⟨addr, -, rfl⟩ | ⟨v, -, hx⟩ | ⟨addr, v, -, -, rfl⟩ | ⟨-, rfl⟩ | ⟨b, -, rfl⟩ | ⟨ans, -, rfl⟩ :=
    act_cases h
  · exact hostRead_transmitInv addr ht
  · exact exec_transmitInv hx ht
  · exact registerWrite_transmitInv addr v hflag ht
  · exact transmitInv_of_phase nofun
  · exact rxArrive_transmitInv b ht
  · exact (engineTurn_effect ans s).transmitInv hrange ht

theorem chosen_transmitInv {s : State} : TransmitInv s.chosen ↔ TransmitInv s := by
  unfold State.chosen
  split <;> exact Iff.rfl

/-! ### The obligation -/

/-- Settles O58: the action taken keeps the invariant, and the choice of it changes nothing there. -/
theorem stepKeepsTheTransmitInvariant : Obligations.StepKeepsTheTransmitInvariant := by
  intro s t hc ht h
  exact act_transmitInv (step_next.1 h).2 (chosen_controlInv.2 hc) (chosen_transmitInv.2 ht)

end Sys2Proof.Machine
end

section
/-! SUPPORT. The checksum function (41_checksum R82-R85): the seed plus the sum of the summed bytes, with the
obligations about it. -/

namespace Sys2Proof.Machine

open Sys2Proof

/-! ### The checksum as one byte sum (R82) -/

/-- The bytes a checksum sums (R82): header, length bytes, payload. -/
def summedBytes (ver cmd : Byte) (L : U16) (P : List Byte) : List Byte :=
  [ver, cmd, hiByte L, loByte L] ++ P

theorem checksum_eq_sum8 (p : Params) (ver cmd : Byte) (L : U16) (P : List Byte) :
    checksum p ver cmd L P = seed p + sum8 (summedBytes ver cmd L P) := by
  simp only [checksum, summedBytes, List.cons_append, List.nil_append, sum8_cons]
  ring

theorem seed_toNat (p : Params) : (seed p).toNat = if p.csumIncludesSync then 0xFF else 0x00 := by
  unfold seed
  split <;> rfl

theorem sum8_toNat (bs : List Byte) : (sum8 bs).toNat = (bs.map BitVec.toNat).sum % 256 := by
  induction bs with
  | nil => rfl
  | cons b bs ih =>
    rw [sum8_cons, BitVec.toNat_add, ih, List.map_cons, List.sum_cons, Nat.add_mod_mod]

/-- Settles O23: `sum8_toNat` for the payload, and the header's bytes as numbers. -/
theorem checksumIsTheSumModulo256 : Obligations.ChecksumIsTheSumModulo256 := by
  intro p ver cmd L P
  simp only [checksum, BitVec.toNat_add, seed_toNat, hiByte_toNat, loByte_toNat, sum8_toNat]
  omega

theorem foldl_add_eq_add_sum8 (acc : Byte) (bs : List Byte) :
    bs.foldl (fun acc b => acc + b) acc = acc + sum8 bs := by
  induction bs generalizing acc with
  | nil => simp
  | cons b bs ih => rw [List.foldl_cons, ih, sum8_cons, BitVec.add_assoc]

/-- Settles O25: the accumulator is the seed plus the byte sum. -/
theorem accumulatorGivesTheChecksum : Obligations.AccumulatorGivesTheChecksum := by
  intro p ver cmd L P
  rw [foldl_add_eq_add_sum8, checksum_eq_sum8, summedBytes]

/-! ### The laws (R84) -/

theorem sum8_perm {xs ys : List Byte} (h : xs.Perm ys) : sum8 xs = sum8 ys := by
  induction h with
  | nil => rfl
  | cons b _ ih => rw [sum8_cons, sum8_cons, ih]
  | swap a b bs => simp only [sum8_cons]; ring
  | trans _ _ ih1 ih2 => rw [ih1, ih2]

theorem checksum_perm (p : Params) {ver cmd ver' cmd' : Byte} {L L' : U16} {P P' : List Byte}
    (h : (summedBytes ver cmd L P).Perm (summedBytes ver' cmd' L' P')) :
    checksum p ver' cmd' L' P' = checksum p ver cmd L P := by
  rw [checksum_eq_sum8, checksum_eq_sum8, sum8_perm h]

theorem sum8_set_ne {bs : List Byte} {i : Nat} {x b : Byte} (hx : bs[i]? = some x) (hb : b ≠ x) :
    sum8 (bs.set i b) ≠ sum8 bs := by
  induction bs generalizing i with
  | nil => simp at hx
  | cons y ys ih =>
    cases i with
    | zero =>
      obtain rfl : y = x := by simpa using hx
      simpa using hb
    | succ i => simpa using ih (by simpa using hx)

/-- Replacing one summed byte changes the checksum. -/
theorem checksum_ne_of_set {p : Params} {ver cmd ver' cmd' : Byte} {L L' : U16} {P P' : List Byte}
    {i : Nat} {x b : Byte} (hset : summedBytes ver' cmd' L' P' = (summedBytes ver cmd L P).set i b)
    (hx : (summedBytes ver cmd L P)[i]? = some x) (hb : b ≠ x) :
    checksum p ver' cmd' L' P' ≠ checksum p ver cmd L P := by
  rw [checksum_eq_sum8, checksum_eq_sum8, hset]
  exact fun h => sum8_set_ne hx hb (add_left_cancel h)

theorem loByte_add_one (L : U16) : loByte (L + 1) = loByte L + 1 := by
  apply BitVec.eq_of_toNat_eq
  simp only [BitVec.toNat_add, loByte_toNat, BitVec.ofNat_eq_ofNat, BitVec.toNat_ofNat]
  omega

theorem loByte_eq_max_iff {L : U16} : loByte L = 0xFF ↔ L.toNat % 256 = 255 := by
  rw [← BitVec.toNat_inj, loByte_toNat]
  rfl

/-- The high length byte counts when the low one wraps. -/
theorem hiByte_add_one (L : U16) :
    hiByte (L + 1) = if loByte L = 0xFF then hiByte L + 1 else hiByte L := by
  have hlt := L.isLt
  apply BitVec.eq_of_toNat_eq
  split
  next h =>
    have := loByte_eq_max_iff.1 h
    simp only [BitVec.toNat_add, hiByte_toNat, BitVec.ofNat_eq_ofNat, BitVec.toNat_ofNat]
    omega
  next h =>
    have := mt loByte_eq_max_iff.2 h
    simp only [BitVec.toNat_add, hiByte_toNat, BitVec.ofNat_eq_ofNat, BitVec.toNat_ofNat]
    omega

/-- One more of length adds 1 for the low length byte, and 1 more where the high one counts too. -/
theorem checksum_length_add_one (p : Params) (ver cmd : Byte) (L : U16) (P : List Byte) :
    checksum p ver cmd (L + 1) P =
      checksum p ver cmd L P + if loByte L = 0xFF then 2 else 1 := by
  simp only [checksum, loByte_add_one, hiByte_add_one]
  split <;> ring

/-- SEED with the sync bytes is SEED without them, less 1 (R82). -/
theorem seed_sync (p : Params) :
    seed { p with csumIncludesSync := true } = seed { p with csumIncludesSync := false } - 1 := rfl

/-- Settles O24: a permutation and a replaced byte by their lemmas on the summed bytes, an appended byte by
what it and the length add, the last law by the seed. -/
theorem checksumLaws : Obligations.ChecksumLaws := by
  intro p ver cmd L P
  refine ⟨fun _ _ _ _ h => checksum_perm p h, fun b => ⟨?_, ?_, ?_, ?_, fun i hi hb => ?_⟩,
    fun x y => ?_, fun _ => ?_, fun _ hlo => ?_, ?_⟩
  · exact checksum_ne_of_set (i := 0) rfl rfl
  · exact checksum_ne_of_set (i := 1) rfl rfl
  · exact checksum_ne_of_set (i := 2) (by simp [summedBytes]) rfl
  · exact checksum_ne_of_set (i := 3) (by simp [summedBytes]) rfl
  · have hx : P[i]? = some P[i] := List.getElem?_eq_getElem hi
    exact checksum_ne_of_set (i := i + 4) rfl hx fun h => hb (h ▸ hx)
  · simp only [checksum, sum8_cons]
    ring
  · rw [checksum_snoc, checksum_length_add_one]
    split <;> simp
  · rw [checksum_snoc, checksum_length_add_one, if_neg hlo, BitVec.add_assoc]
    exact BitVec.add_zero _
  · simp only [checksum, seed_sync]
    ring

end Sys2Proof.Machine
end

section
/-! SUPPORT. CSUM_COMPUTE and CSUM_VALIDATE (41_checksum R86, R87): the three outcomes of their one engine step,
and what it leaves unchanged, with the obligations about them. -/

namespace Sys2Proof.Machine

open Sys2Proof

/-! ### The step's outcomes -/

theorem txPayload_ok {s : State} {L : U16} {P : List Byte}
    (h : Memory.readRun s.mem 0x800 L.toNat = .ok P) : s.txPayload L = .ok P := by
  simp only [State.txPayload, h]

/-- The lowest unwritten byte below the length is the fault (60_exceptions R127.3). -/
theorem txPayload_unwritten {s : State} {L : U16} {i : BufIndex} (hi : i.toNat < L.toNat)
    (hnone : Memory.read s.mem (0x800 + i.toNat) = none)
    (hbelow : ∀ j : BufIndex, j.toNat < i.toNat → Memory.read s.mem (0x800 + j.toNat) ≠ none) :
    s.txPayload L = .error (.unwritten (.txBuf i)) := by
  have hrun : Memory.readRun s.mem 0x800 L.toNat = .error (0x800 + i.toNat) := by
    refine Memory.readRun_error_iff.2 ⟨i.toNat, hi, rfl, hnone, fun j hj => ?_⟩
    have hbuf : (bufIndex j).toNat = j := by
      rw [bufIndex_toNat]
      omega
    have := hbelow (bufIndex j)
    rw [hbuf] at this
    exact this hj
  simp only [State.txPayload, hrun]
  rw [show bufIndex (0x800 + i.toNat) = i from bufIndex_txBufAddr i]

theorem csumStep_tooLarge (g : Byte → Bool) {s : State} (h : 1024 < s.txLen.toNat) :
    csumStep g s = complete .tooLarge false false s := if_pos h

theorem csumStep_written (g : Byte → Bool) {s : State} {P : List Byte} (h : s.txLen.toNat ≤ 1024)
    (hrun : Memory.readRun s.mem 0x800 s.txLen.toNat = .ok P) :
    csumStep g s = complete .ok false (g (checksum s.params s.txVer s.txCmd s.txLen P))
      { s with calcCsum := some (checksum s.params s.txVer s.txCmd s.txLen P) } := by
  rw [csumStep, if_neg (Nat.not_lt.2 h), txPayload_ok hrun]

theorem csumStep_unwritten (g : Byte → Bool) {s : State} {i : BufIndex} (h : s.txLen.toNat ≤ 1024)
    (hi : i.toNat < s.txLen.toNat) (hnone : Memory.read s.mem (0x800 + i.toNat) = none)
    (hbelow : ∀ j : BufIndex, j.toNat < i.toNat → Memory.read s.mem (0x800 + j.toNat) ≠ none) :
    csumStep g s = s.raise (.unwritten (.txBuf i)) := by
  rw [csumStep, if_neg (Nat.not_lt.2 h), txPayload_unwritten hi hnone hbelow]

/-- Settles O26: the accepted state's turn is `csumStep`, with its three outcomes. -/
theorem csumComputeRuns : Obligations.CsumComputeRuns := by
  intro s a hf hb
  let t := accept .csumCompute s
  have hturn : engineTurn a t = csumComputeStep t := engineTurn_csumCompute hf rfl rfl
  refine ⟨t, ctrlWrite_idle hf hb _, rfl, fun h => ?_, fun P hl hrun => ?_,
    fun i hl hi hnone hbelow => ?_⟩ <;> rw [hturn]
  · exact csumStep_tooLarge (s := t) _ h
  · exact csumStep_written (s := t) _ hl hrun
  · exact csumStep_unwritten (s := t) _ hl hi hnone hbelow

/-- Settles O27: as O26, with CSUM_MATCH the step's comparison. -/
theorem csumValidateRuns : Obligations.CsumValidateRuns := by
  intro s a hf hb
  let t := accept .csumValidate s
  have hturn : engineTurn a t = csumValidateStep t := engineTurn_csumValidate hf rfl rfl
  refine ⟨t, ctrlWrite_idle hf hb _, rfl, fun h => ?_, fun P hl hrun => ⟨_, beq_iff_eq, ?_⟩,
    fun i hl hi hnone hbelow => ?_⟩ <;> rw [hturn]
  · exact csumStep_tooLarge (s := t) _ h
  · exact csumStep_written (s := t) _ hl hrun
  · exact csumStep_unwritten (s := t) _ hl hi hnone hbelow

/-! ### What the step leaves -/

/-- A turn in phase CS is a hold or the step both operations share. -/
theorem engineTurn_cs_cases {s : State} (a : SinkAnswer) (hp : s.phase = .cs) :
    engineTurn a s = s ∨ ∃ g, engineTurn a s = csumStep g s := by
  rcases engineTurn_cases a s with ⟨-, h⟩ | ⟨-, h⟩
  · rw [h]
    simp only [phaseStep, hp]
    split
    · exact .inr ⟨_, rfl⟩
    · exact .inr ⟨_, rfl⟩
  · exact .inl h

/-- What a turn in phase CS can change: CALC_CSUM, STATUS, op, phase and the fault mark. -/
def ChecksumFrame (s t : State) : Prop :=
  t = { s with calcCsum := t.calcCsum, status := t.status, op := t.op, phase := t.phase,
               fault := t.fault }

theorem csumStep_frame (g : Byte → Bool) (s : State) : ChecksumFrame s (csumStep g s) := by
  rcases csumStep_cases g s with h | ⟨f, -, h⟩ | ⟨P, -, h⟩ <;> rw [h] <;> rfl

theorem engineTurn_checksumFrame (a : SinkAnswer) {s : State} (hp : s.phase = .cs) :
    ChecksumFrame s (engineTurn a s) := by
  rcases engineTurn_cs_cases a hp with h | ⟨g, h⟩ <;> rw [h]
  · rfl
  · exact csumStep_frame g s

/-- Settles O49, field by field of the frame. -/
theorem checksumTurnsLeaveTheRest : Obligations.ChecksumTurnsLeaveTheRest := by
  intro a s hp
  rw [engineTurn_checksumFrame a hp]
  exact ⟨rfl, rfl, rfl, rfl, rfl, rfl, rfl, ⟨rfl, rfl, rfl, rfl, rfl, fun _ => rfl⟩,
    ⟨rfl, rfl, rfl, rfl, rfl, fun _ => rfl⟩, rfl, rfl, rfl, rfl⟩

end Sys2Proof.Machine
end

section
/-! SUPPORT. DECODE's engine turns (42_frame_decode R88-R101): the whole next state of a turn in each receive
phase, and what no receive turn touches, with the obligations about them. -/

namespace Sys2Proof.Machine

open Sys2Proof

section Turns

variable {a : SinkAnswer} {s : State} {b : Byte} {r : List Byte}

/-! ### The search for the sync marker (R89, R90) -/

/-- The phase in which the search goes on after byte `b`: a 0x55 can begin the marker. -/
def searchPhase (b : Byte) : Phase := if b = 0x55 then .rxSync1 else .rxHunt

theorem engineTurn_noData (hf : s.fault = none)
    (hp : s.phase = .rxHunt ∨ s.phase = .rxSync1) (hq : s.rxq = []) :
    engineTurn a s = complete .noData false false s := by
  rcases hp with hp | hp
  · rw [engineTurn_rxHunt hf hp, rxHuntStep, popOr_nil _ _ hq]
  · rw [engineTurn_rxSync1 hf hp, rxSync1Step, popOr_nil _ _ hq]

theorem engineTurn_huntByte (hf : s.fault = none) (hp : s.phase = .rxHunt) (hq : s.rxq = b :: r) :
    engineTurn a s = { s with rxq := r, phase := searchPhase b } := by
  rw [engineTurn_rxHunt hf hp, rxHuntStep, popOr_cons _ _ hq, searchPhase]
  split <;> rfl

theorem engineTurn_marker (hf : s.fault = none) (hp : s.phase = .rxSync1)
    (hq : s.rxq = 0xAA :: r) :
    engineTurn a s = { s with rxq := r, acc := seed s.params, phase := .rxVer } := by
  rw [engineTurn_rxSync1 hf hp, rxSync1Step, popOr_cons _ _ hq, if_pos rfl]

theorem engineTurn_notMarker (hf : s.fault = none) (hp : s.phase = .rxSync1) (hb : b ≠ 0xAA)
    (hq : s.rxq = b :: r) :
    engineTurn a s = { s with rxq := r, phase := searchPhase b } := by
  rw [engineTurn_rxSync1 hf hp, rxSync1Step, popOr_cons _ _ hq, if_neg hb, searchPhase]
  split <;> rfl

/-! ### The header (R93-R96) -/

theorem engineTurn_version (hf : s.fault = none) (hp : s.phase = .rxVer) (hq : s.rxq = b :: r) :
    engineTurn a s = { s with rxq := r, rxVer := some b, acc := s.acc + b, phase := .rxCmd } := by
  rw [engineTurn_rxVer hf hp, rxVerStep, popOr_cons _ _ hq]
  rfl

theorem engineTurn_command (hf : s.fault = none) (hp : s.phase = .rxCmd) (hq : s.rxq = b :: r) :
    engineTurn a s = { s with rxq := r, rxCmd := some b, acc := s.acc + b, phase := .rxLenH } := by
  rw [engineTurn_rxCmd hf hp, rxCmdStep, popOr_cons _ _ hq]
  rfl

theorem engineTurn_lenHi (hf : s.fault = none) (hp : s.phase = .rxLenH) (hq : s.rxq = b :: r) :
    engineTurn a s =
      { s with rxq := r, rxLenHi := some b, acc := s.acc + b, phase := .rxLenL } := by
  rw [engineTurn_rxLenH hf hp, rxLenHStep, popOr_cons _ _ hq]
  rfl

/-- RX_LENL latches the length and checks it. -/
theorem engineTurn_lenLo {hi : Byte} (hf : s.fault = none) (hp : s.phase = .rxLenL)
    (hhi : s.rxLenHi = some hi)
    (hq : s.rxq = b :: r) :
    engineTurn a s =
      rxLenCheck { s with rxq := r, rxLenLo := some b, acc := s.acc + b, len := u16 hi b } := by
  rw [engineTurn_rxLenL hf hp, rxLenLStep, popOr_cons _ _ hq]
  simp only [hhi, receivedLenHi_some]
  rfl

theorem rxLenCheck_overflow (h : 1024 < s.len.toNat) :
    rxLenCheck s = terminal .overflow false false s := if_pos h

theorem rxLenCheck_zero (h : s.len.toNat = 0) :
    rxLenCheck s = { s with phase := .rxCsum } := by
  have h0 : s.len = 0 := BitVec.eq_of_toNat_eq h
  rw [rxLenCheck, if_neg (by omega), if_pos h0]

theorem rxLenCheck_payload (hpos : 0 < s.len.toNat) (hle : s.len.toNat ≤ 1024) :
    rxLenCheck s = { s with idx := 0, phase := .rxPay } := by
  have h0 : s.len ≠ 0 := by
    intro h
    simp [h] at hpos
  rw [rxLenCheck, if_neg (Nat.not_lt.2 hle), if_neg h0]

/-! ### Payload, checksum and drain (R97, R98, R100, R101) -/

/-- While `idx` is below 1024 a payload byte goes to RX_BUF[idx] itself (log entry 10). -/
theorem rxBufAddr_setWidth {i : FrameIndex} (h : i.toNat < 1024) :
    rxBufAddr (i.setWidth 10) = 0x400 + i.toNat := by
  simp [rxBufAddr, Nat.mod_eq_of_lt h]

theorem engineTurn_payload (hf : s.fault = none) (hp : s.phase = .rxPay) (hi : s.idx.toNat < 1024)
    (hq : s.rxq = b :: r)
    (hmore : s.idx.toNat + 1 ≠ s.len.toNat) :
    engineTurn a s =
      { s with rxq := r, mem := Memory.write s.mem (0x400 + s.idx.toNat) b, acc := s.acc + b,
               idx := s.idx + 1 } := by
  rw [engineTurn_rxPay hf hp, rxPayStep, popOr_cons _ _ hq]
  simp only [if_neg hmore, rxBufAddr_setWidth hi]
  rfl

theorem engineTurn_payloadEnd (hf : s.fault = none) (hp : s.phase = .rxPay)
    (hi : s.idx.toNat < 1024) (hq : s.rxq = b :: r)
    (hend : s.idx.toNat + 1 = s.len.toNat) :
    engineTurn a s =
      { s with rxq := r, mem := Memory.write s.mem (0x400 + s.idx.toNat) b, acc := s.acc + b,
               phase := .rxCsum } := by
  rw [engineTurn_rxPay hf hp, rxPayStep, popOr_cons _ _ hq]
  simp only [if_pos hend, rxBufAddr_setWidth hi]
  rfl

theorem engineTurn_csumOk (hf : s.fault = none) (hp : s.phase = .rxCsum) (hq : s.rxq = b :: r)
    (hb : b = s.acc) :
    engineTurn a s =
      terminal .ok true true { s with rxq := r, rxCsum := some b, calcCsum := some s.acc } := by
  rw [engineTurn_rxCsum hf hp, rxCsumStep, popOr_cons _ _ hq]
  exact if_pos hb

theorem engineTurn_csumWrong (hf : s.fault = none) (hp : s.phase = .rxCsum) (hq : s.rxq = b :: r)
    (hb : b ≠ s.acc) :
    engineTurn a s =
      terminal .checksumMismatch false false
        { s with rxq := r, rxCsum := some b, calcCsum := some s.acc } := by
  rw [engineTurn_rxCsum hf hp, rxCsumStep, popOr_cons _ _ hq]
  exact if_neg hb

theorem terminal_retain {c : Result} {v m : Bool}
    (h : s.params.remainderPolicy = .retain) : terminal c v m s = complete c v m s := by
  simp only [terminal, h]

theorem terminal_discard {c : Result} {v m : Bool}
    (h : s.params.remainderPolicy = .discard) :
    terminal c v m s = { s with pend := ⟨c, v, m⟩, phase := .rxDrain } := by
  simp only [terminal, h]

theorem engineTurn_drain (hf : s.fault = none) (hp : s.phase = .rxDrain) (hq : s.rxq = b :: r) :
    engineTurn a s = { s with rxq := r } := by
  rw [engineTurn_rxDrain hf hp, rxDrainStep, popOr_cons _ _ hq]

theorem engineTurn_drainEnd (hf : s.fault = none) (hp : s.phase = .rxDrain) (hq : s.rxq = []) :
    engineTurn a s = complete s.pend.code s.pend.valid s.pend.csumMatch s := by
  rw [engineTurn_rxDrain hf hp, rxDrainStep, popOr_nil _ _ hq]

end Turns

/-! ### The hold of R92 -/

/-- The phases after the marker that need a byte (R92). -/
def AwaitsByte (s : State) : Prop :=
  s.phase = .rxVer ∨ s.phase = .rxCmd ∨ s.phase = .rxLenH ∨ s.phase = .rxLenL ∨
    s.phase = .rxPay ∨ s.phase = .rxCsum

theorem AwaitsByte.engineEnabled {s : State} (h : AwaitsByte s) :
    s.engineEnabled = (s.fault.isNone && s.avail) := by
  rcases h with h | h | h | h | h | h <;> simp only [State.engineEnabled, h]

/-- A state the engine has no step in is held however many turns it is given. -/
theorem engineRun_hold {s : State} (h : s.engineEnabled = false) (as : List SinkAnswer) :
    engineRun as s = s := by
  have hturn (a : SinkAnswer) : engineTurn a s = s := by simp [engineTurn, h]
  induction as with
  | nil => rfl
  | cons a as ih => rw [engineRun_cons, hturn, ih]

/-! ### What a receive turn leaves (R88) -/

@[simp] theorem terminal_txlog (c : Result) (v m : Bool) (s : State) :
    (terminal c v m s).txlog = s.txlog := by
  rcases terminal_cases c v m s with ⟨-, h⟩ | ⟨-, h⟩ <;> rw [h]
  exact complete_txlog c v m s

/-- Only the transmit phases send. -/
theorem TurnEffect.txlog_of_decode {s t : State} (h : TurnEffect s t)
    (hp : phaseFits .decode s.phase = true) : t.txlog = s.txlog := by
  cases h with
  | overflow | csumOk | csumWrong => exact terminal_txlog _ _ _ _
  | txAccept _ htx | txFlush htx =>
    rw [htx] at hp
    cases hp
  | _ => rfl

theorem rxBufAddr_inj {i j : BufIndex} (h : rxBufAddr i = rxBufAddr j) : i = j := by
  rw [← bufIndex_rxBufAddr i, h, bufIndex_rxBufAddr]

/-- An engine turn writes no byte of RX_BUF but the one RX_PAY stores (R97). -/
theorem TurnEffect.read_rxBuf {s t : State} (h : TurnEffect s t) {i : BufIndex}
    (hi : ¬ (s.phase = .rxPay ∧ i = s.idx.setWidth 10)) :
    Memory.read t.mem (rxBufAddr i) = Memory.read s.mem (rxBufAddr i) := by
  cases h with
  | payload b _ hp | payloadEnd b _ hp =>
    exact Memory.read_write_other b fun h => hi ⟨hp, rxBufAddr_inj h⟩
  | overflow | csumOk | csumWrong => rw [terminal_mem]
  | txAccept => rw [txAccepted_mem]
  | _ => rfl

/-! ### The obligations -/

/-- Settles O29, by the four turns of the search. -/
theorem searchStepsFindTheMarker : Obligations.SearchStepsFindTheMarker := by
  intro a s hf
  exact ⟨engineTurn_noData hf, fun b r => engineTurn_huntByte hf,
    fun r => engineTurn_marker hf, fun b r => engineTurn_notMarker hf⟩

/-- Settles O30: in these phases a step is enabled exactly while a byte waits. -/
theorem receivePhasesHoldWithoutBytes : Obligations.ReceivePhasesHoldWithoutBytes := by
  intro s hf hq hp
  have hheld : s.engineEnabled = false := by
    rw [AwaitsByte.engineEnabled hp, State.avail, hq]
    simp
  refine ⟨hheld, engineRun_hold hheld, fun b => ?_, rfl⟩
  rw [AwaitsByte.engineEnabled (s := { s with rxq := [b] }) hp, State.avail, hf]
  rfl

/-- Settles O31, by the header's three turns. -/
theorem headerBytesAreStored : Obligations.HeaderBytesAreStored := by
  intro a s b r hf hq
  exact ⟨fun hp => engineTurn_version hf hp hq, fun hp => engineTurn_command hf hp hq,
    fun hp => engineTurn_lenHi hf hp hq⟩

/-- Settles O32: the turn is the length check, and the latched length is a number. -/
theorem lengthByteDecides : Obligations.LengthByteDecides := by
  intro a s hi b r hf hp hhi hq
  rw [engineTurn_lenLo hf hp hhi hq, ← u16_toNat]
  exact ⟨fun h => rxLenCheck_overflow h, fun h => rxLenCheck_zero h,
    fun hpos hle => rxLenCheck_payload hpos hle, rfl⟩

/-- Settles O33: the memory is the one with the byte written at RX_BUF[idx]. -/
theorem payloadByteIsStored : Obligations.PayloadByteIsStored := by
  intro a s b r hf hp hlt hlen hq
  have hi : s.idx.toNat < 1024 := Nat.lt_of_lt_of_le hlt hlen
  exact ⟨Memory.write s.mem (0x400 + s.idx.toNat) b, Memory.read_write_same _ _ _,
    fun x hx => Memory.read_write_other b hx, engineTurn_payloadEnd hf hp hi hq,
    engineTurn_payload hf hp hi hq⟩

/-- Settles O34: the turn compares, and what was summed is the receive invariant's sum. -/
theorem checksumByteDecides : Obligations.ChecksumByteDecides := by
  intro a s b r hf hp hq
  refine ⟨engineTurn_csumOk hf hp hq, engineTurn_csumWrong hf hp hq, fun hinv => ?_⟩
  obtain ⟨hsum, -⟩ := receiveInv_iff.1 hinv
  simp only [RxSum, hp] at hsum
  obtain ⟨ver, cmd, P, hver, hcmd, -, -, hrun, hacc⟩ := hsum
  exact ⟨ver, cmd, P, hver, hcmd, hrun, hacc⟩

/-- Settles O35: Terminal by policy, and the two turns of the drain. -/
theorem terminalOutcomesDrainOrPublish : Obligations.TerminalOutcomesDrainOrPublish :=
  ⟨fun _ _ _ _ => ⟨terminal_retain, terminal_discard⟩,
    fun _ _ hf hp => ⟨engineTurn_drainEnd hf hp, fun _ _ => engineTurn_drain hf hp⟩⟩

/-- Settles O50, by what an engine turn can do. -/
theorem receiveTurnsLeaveTheRest : Obligations.ReceiveTurnsLeaveTheRest := by
  intro a s hp
  have e := engineTurn_effect a s
  exact ⟨e.txlog_of_decode hp, e.sameOperands, e.sameRest, fun i hi => e.read_rxBuf hi⟩

end Sys2Proof.Machine
end

section
/-! SUPPORT. DECODE from its CTRL write to its end (42_frame_decode R104): the turns that skip garbage, take a
frame and drain the rest, whatever the sink answers, with the obligation this settles. -/

namespace Sys2Proof.Machine

open Sys2Proof

/-! ### Runs whose sink's answers do not matter -/

/-- `n` turns of the engine lead from `s` to `t`, whatever the sink answers. -/
def TurnsTo (n : Nat) (s t : State) : Prop :=
  ∀ as : List SinkAnswer, as.length = n → engineRun as s = t

theorem TurnsTo.refl (s : State) : TurnsTo 0 s s := by
  intro as h
  rw [List.length_eq_zero_iff.1 h, engineRun_nil]

theorem TurnsTo.step {n : Nat} {s t u : State} (h : ∀ a, engineTurn a s = t)
    (k : TurnsTo n t u) : TurnsTo (n + 1) s u := by
  intro as hlen
  obtain ⟨a, rest, rfl⟩ := List.exists_cons_of_length_eq_add_one hlen
  rw [engineRun_cons, h, k rest (by simpa using hlen)]

theorem TurnsTo.one {s t : State} (h : ∀ a, engineTurn a s = t) : TurnsTo 1 s t :=
  .step h (.refl t)

theorem TurnsTo.trans {m n : Nat} {s t u : State} (h : TurnsTo m s t) (k : TurnsTo n t u) :
    TurnsTo (m + n) s u := by
  intro as hlen
  rw [← List.take_append_drop m as, engineRun_append, h _ (by simp; omega), k _ (by simp; omega)]

/-- Turns after the operation's end change nothing. -/
theorem TurnsTo.idle {m n : Nat} {s t : State} (h : TurnsTo m s t) (hp : t.phase = .idle) :
    TurnsTo (m + n) s t :=
  h.trans fun as _ => engineRun_idle hp as

/-! ### The garbage before the marker (R89, R90) -/

/-- The search has not yet found the marker and will not find it within the bytes `G` to come, the 0x55
that RX_SYNC1 remembers among them. -/
def SkipsGarbage (s : State) (G : List Byte) : Prop :=
  (s.phase = .rxHunt ∧ ¬ [0x55, 0xAA] <:+: G) ∨
  (s.phase = .rxSync1 ∧ ¬ [0x55, 0xAA] <:+: 0x55 :: G)

theorem SkipsGarbage.searches {s : State} {G : List Byte} (h : SkipsGarbage s G) :
    s.phase = .rxHunt ∨ s.phase = .rxSync1 := h.imp And.left And.left

/-- A byte of the garbage is dropped, and the search goes on. -/
theorem SkipsGarbage.turn {s : State} {b : Byte} {G r : List Byte} (h : SkipsGarbage s (b :: G))
    (hf : s.fault = none) (hq : s.rxq = b :: r) (a : SinkAnswer) :
    engineTurn a s = { s with rxq := r, phase := searchPhase b } := by
  rcases h with ⟨hp, -⟩ | ⟨hp, hG⟩
  · exact engineTurn_huntByte hf hp hq
  · refine engineTurn_notMarker hf hp ?_ hq
    rintro rfl
    exact hG (List.prefix_append [0x55, 0xAA] G).isInfix

theorem SkipsGarbage.rest {s : State} {b : Byte} {G : List Byte} (h : SkipsGarbage s (b :: G))
    (r : List Byte) : SkipsGarbage { s with rxq := r, phase := searchPhase b } G := by
  have hG : ¬ [0x55, 0xAA] <:+: b :: G := by
    rcases h with ⟨-, hG⟩ | ⟨-, hG⟩
    · exact hG
    · exact fun h => hG (List.infix_cons h)
  by_cases hb : b = 0x55
  · subst hb
    exact .inr ⟨rfl, hG⟩
  · exact .inl ⟨if_neg hb, fun h => hG (List.infix_cons h)⟩

/-- The search drops the garbage, a byte a turn, and still searches. -/
theorem turnsTo_search {G r : List Byte} : ∀ {s : State}, s.fault = none → SkipsGarbage s G →
    s.rxq = G ++ r → ∃ p, (p = .rxHunt ∨ p = .rxSync1) ∧
      TurnsTo G.length s { s with rxq := r, phase := p } := by
  induction G with
  | nil =>
    rintro s - hG rfl
    exact ⟨s.phase, hG.searches, .refl s⟩
  | cons b G ih =>
    intro s hf hG hq
    obtain ⟨p, hp, hrun⟩ :=
      ih (s := { s with rxq := G ++ r, phase := searchPhase b }) hf (hG.rest _) rfl
    exact ⟨p, hp, .step (hG.turn hf hq) hrun⟩

/-- A 0x55 brings the search to RX_SYNC1, whichever of its phases it is in. -/
theorem engineTurn_firstSyncByte {a : SinkAnswer} {s : State} {r : List Byte} (hf : s.fault = none)
    (hp : s.phase = .rxHunt ∨ s.phase = .rxSync1) (hq : s.rxq = 0x55 :: r) :
    engineTurn a s = { s with rxq := r, phase := .rxSync1 } := by
  rcases hp with hp | hp
  · exact engineTurn_huntByte hf hp hq
  · exact engineTurn_notMarker hf hp (by decide) hq

/-- Garbage without the marker, then the marker: both are taken and the sum starts. -/
theorem turnsTo_marker {s : State} {G r : List Byte} (hf : s.fault = none)
    (hp : s.phase = .rxHunt) (hG : ¬ [0x55, 0xAA] <:+: G) (hq : s.rxq = G ++ 0x55 :: 0xAA :: r) :
    TurnsTo (G.length + 2) s { s with rxq := r, acc := seed s.params, phase := .rxVer } := by
  obtain ⟨p, hsearch, hrun⟩ := turnsTo_search hf (.inl ⟨hp, hG⟩) hq
  exact hrun.trans (.step (fun _ => engineTurn_firstSyncByte hf hsearch rfl)
    (.one fun _ => engineTurn_marker hf rfl rfl))

/-! ### The header (R93-R95) -/

theorem turnsTo_header {s : State} {ver cmd hi : Byte} {r : List Byte} (hf : s.fault = none)
    (hp : s.phase = .rxVer) (hq : s.rxq = ver :: cmd :: hi :: r) :
    TurnsTo 3 s { s with rxq := r, rxVer := some ver, rxCmd := some cmd, rxLenHi := some hi,
                         acc := s.acc + ver + cmd + hi, phase := .rxLenL } :=
  .step (fun _ => engineTurn_version hf hp hq) <|
    .step (fun _ => engineTurn_command hf rfl rfl) <|
      .one fun _ => engineTurn_lenHi hf rfl rfl

/-- From the search to RX_LENL. -/
theorem turnsTo_lenL {s : State} {ver cmd hi : Byte} {G r : List Byte} (hf : s.fault = none)
    (hp : s.phase = .rxHunt) (hG : ¬ [0x55, 0xAA] <:+: G)
    (hq : s.rxq = G ++ 0x55 :: 0xAA :: ver :: cmd :: hi :: r) :
    TurnsTo (G.length + 2 + 3) s
      { s with rxq := r, rxVer := some ver, rxCmd := some cmd, rxLenHi := some hi,
               acc := seed s.params + ver + cmd + hi, phase := .rxLenL } :=
  (turnsTo_marker hf hp hG hq).trans (turnsTo_header hf rfl rfl)

/-! ### Runs of bytes written -/

/-- `m` with the bytes `P` written from address `a` up. -/
def Memory.writeRun (m : Memory) (a : Nat) : List Byte → Memory
  | [] => m
  | b :: P => Memory.writeRun (Memory.write m a b) (a + 1) P

theorem Memory.read_writeRun_other {x : Nat} {P : List Byte} : ∀ {m : Memory} {a : Nat},
    x < a ∨ a + P.length ≤ x → Memory.read (Memory.writeRun m a P) x = Memory.read m x := by
  induction P with
  | nil => intro m a _; rfl
  | cons b P ih =>
    intro m a h
    rw [List.length_cons] at h
    rw [Memory.writeRun, ih (by omega), Memory.read_write_other b (by omega)]

theorem Memory.readRun_writeRun (m : Memory) (a : Nat) (P : List Byte) :
    Memory.readRun (Memory.writeRun m a P) a P.length = .ok P := by
  induction P generalizing m a with
  | nil => rfl
  | cons b P ih =>
    have hb : Memory.read (Memory.writeRun (Memory.write m a b) (a + 1) P) a = some b := by
      rw [Memory.read_writeRun_other (.inl (Nat.lt_succ_self a)), Memory.read_write_same]
    simp only [Memory.writeRun, List.length_cons, Memory.readRun, hb, ih]

/-! ### The payload (R96, R97) -/

/-- RX_PAY with `idx + |P| = len` stores the payload's bytes `P` and sums them; `idx` is of no later use. -/
theorem turnsTo_payload {P r : List Byte} : ∀ {s : State}, s.fault = none → s.phase = .rxPay →
    P ≠ [] → s.idx.toNat + P.length = s.len.toNat → s.len.toNat ≤ 1024 → s.rxq = P ++ r →
    ∃ i, TurnsTo P.length s
      { s with rxq := r, mem := Memory.writeRun s.mem (0x400 + s.idx.toNat) P,
               acc := s.acc + sum8 P, idx := i, phase := .rxCsum } := by
  induction P with
  | nil => intro s _ _ h; exact absurd rfl h
  | cons b P ih =>
    intro s hf hp _ hlen hle hq
    rw [List.length_cons] at hlen
    cases P with
    | nil =>
      refine ⟨s.idx, .one fun a => ?_⟩
      rw [engineTurn_payloadEnd hf hp (by omega) hq hlen]
      simp [Memory.writeRun]
    | cons c Q =>
      rw [List.length_cons] at hlen
      have hidx : (s.idx + 1).toNat = s.idx.toNat + 1 := by bv_omega
      have hturn (a : SinkAnswer) :=
        engineTurn_payload (a := a) hf hp (by omega) hq (by omega)
      obtain ⟨i, hrun⟩ := ih
        (s := { s with rxq := c :: Q ++ r, mem := Memory.write s.mem (0x400 + s.idx.toNat) b,
                       acc := s.acc + b, idx := s.idx + 1 })
        hf hp nofun (by simp only [hidx, List.length_cons]; omega) hle rfl
      refine ⟨i, .step hturn ?_⟩
      rw [sum8_cons b, ← BitVec.add_assoc, Memory.writeRun, Nat.add_assoc, ← hidx]
      exact hrun

/-- From RX_LENL a length of at most 1024 brings the payload, none for length 0, to RX_BUF. -/
theorem turnsTo_lengthAndPayload {s : State} {hi lo : Byte} {P r : List Byte}
    (hf : s.fault = none) (hp : s.phase = .rxLenL) (hhi : s.rxLenHi = some hi)
    (hlen : (u16 hi lo).toNat = P.length) (hle : P.length ≤ 1024) (hq : s.rxq = lo :: (P ++ r)) :
    ∃ i, TurnsTo (P.length + 1) s
      { s with rxq := r, rxLenLo := some lo, len := u16 hi lo,
               mem := Memory.writeRun s.mem 0x400 P, acc := s.acc + lo + sum8 P, idx := i,
               phase := .rxCsum } := by
  have hturn (a : SinkAnswer) := engineTurn_lenLo (a := a) hf hp hhi hq
  by_cases hP : P = []
  · subst hP
    rw [rxLenCheck_zero hlen] at hturn
    refine ⟨s.idx, .one fun a => ?_⟩
    rw [hturn]
    simp [Memory.writeRun]
  · let t : State := { s with rxq := P ++ r, rxLenLo := some lo, acc := s.acc + lo, len := u16 hi lo,
                              idx := 0, phase := .rxPay }
    have hpos : 0 < t.len.toNat := hlen ▸ List.length_pos_iff.2 hP
    have hle' : t.len.toNat ≤ 1024 := hlen ▸ hle
    have hidx : t.idx.toNat + P.length = t.len.toNat := hlen ▸ Nat.zero_add P.length
    obtain ⟨i, hrun⟩ := turnsTo_payload (s := t) hf rfl hP hidx hle' rfl
    exact ⟨i, .step (fun a => (hturn a).trans (rxLenCheck_payload hpos hle')) hrun⟩

/-! ### A frame up to its checksum byte -/

/-- `s` in RX_CSUM with frame `f` received, `r` still waiting and the counter at `i`. -/
def State.received (f : Frame) (i : FrameIndex) (r : List Byte) (s : State) : State :=
  { s with
    rxVer := some f.version
    rxCmd := some f.command
    rxLenHi := some (hiByte (BitVec.ofNat 16 f.payload.length))
    rxLenLo := some (loByte (BitVec.ofNat 16 f.payload.length))
    mem := Memory.writeRun s.mem 0x400 f.payload
    acc := frameChecksum s.params f
    len := BitVec.ofNat 16 f.payload.length
    idx := i
    rxq := r
    phase := .rxCsum }

/-- Garbage without the marker, then a frame's bytes: all but the checksum byte `k`, right or wrong, are
taken, stored and summed. -/
theorem turnsTo_received {s : State} {G T : List Byte} {f : Frame} {k : Byte}
    (hf : s.fault = none) (hp : s.phase = .rxHunt) (hwf : f.wf = true)
    (hG : ¬ [0x55, 0xAA] <:+: G) (hq : s.rxq = G ++ wireBytes f k ++ T) :
    ∃ i, TurnsTo (G.length + 6 + f.payload.length) s (s.received f i (k :: T)) := by
  let L : U16 := BitVec.ofNat 16 f.payload.length
  have hL : (u16 (hiByte L) (loByte L)).toNat = f.payload.length := by
    rw [u16_hiByte_loByte, frameLength_toNat hwf]
  have hq' : s.rxq = G ++ 0x55 :: 0xAA :: f.version :: f.command :: hiByte L :: loByte L ::
      (f.payload ++ k :: T) := by
    rw [hq]
    simp [wireBytes, L]
  let t : State :=
    { s with rxq := loByte L :: (f.payload ++ k :: T), rxVer := some f.version,
             rxCmd := some f.command, rxLenHi := some (hiByte L),
             acc := seed s.params + f.version + f.command + hiByte L, phase := .rxLenL }
  have hheader : TurnsTo (G.length + 2 + 3) s t := turnsTo_lenL hf hp hG hq'
  obtain ⟨i, hpay⟩ := turnsTo_lengthAndPayload (s := t) hf rfl rfl hL (frame_wf_iff.1 hwf) rfl
  rw [u16_hiByte_loByte] at hpay
  refine ⟨i, ?_⟩
  rw [show G.length + 6 + f.payload.length = G.length + 2 + 3 + (f.payload.length + 1) by omega]
  exact hheader.trans hpay

/-- The registers and RX_BUF hold the frame once its checksum byte is taken. -/
theorem received_rxHolds {f : Frame} (hwf : f.wf = true) (i : FrameIndex) (k : Byte)
    (r : List Byte) (s : State) :
    RxHolds { s.received f i r with rxCsum := some k } f k :=
  ⟨hwf, rfl, rfl, rfl, rfl, Memory.readRun_writeRun _ _ _, rfl⟩

/-! ### The terminal outcome (R100, R101) -/

/-- The turns that a terminal outcome takes after it, with `T` in RXQ. -/
def drainTurns (p : RemainderPolicy) (T : List Byte) : Nat :=
  match p with
  | .discard => T.length + 1
  | .retain => 0

/-- What a terminal outcome leaves of `T` in RXQ. -/
def undrained (p : RemainderPolicy) (T : List Byte) : List Byte :=
  match p with
  | .discard => []
  | .retain => T

theorem turnsTo_drain {T : List Byte} : ∀ {s : State}, s.fault = none → s.phase = .rxDrain →
    s.rxq = T → TurnsTo (T.length + 1) s
      (complete s.pend.code s.pend.valid s.pend.csumMatch { s with rxq := [] }) := by
  induction T with
  | nil =>
    intro s hf hp hq
    have hs : { s with rxq := [] } = s := by rw [← hq]
    rw [hs]
    exact .one fun _ => engineTurn_drainEnd hf hp hq
  | cons b T ih =>
    intro s hf hp hq
    exact .step (fun _ => engineTurn_drain hf hp hq) (ih (s := { s with rxq := T }) hf hp rfl)

/-- A terminal outcome publishes its result, at once or after the drain. -/
theorem turnsTo_terminal (c : Result) (v m : Bool) {s : State} (hf : s.fault = none) :
    ∃ pd, TurnsTo (drainTurns s.params.remainderPolicy s.rxq) (terminal c v m s)
      (complete c v m
        { s with rxq := undrained s.params.remainderPolicy s.rxq, pend := pd }) := by
  cases hpol : s.params.remainderPolicy with
  | retain =>
    rw [terminal_retain hpol]
    exact ⟨s.pend, .refl _⟩
  | discard =>
    rw [terminal_discard hpol]
    exact ⟨⟨c, v, m⟩, turnsTo_drain hf rfl rfl⟩

/-! ### A valid frame after garbage (R104) -/

/-- Where a DECODE ends that received valid frame `f` with `T` behind it. -/
def State.decoded (f : Frame) (T : List Byte) (i : FrameIndex) (pd : Pending) (s : State) : State :=
  complete .ok true true
    { s.received f i (undrained s.params.remainderPolicy T) with
      rxCsum := some (frameChecksum s.params f)
      calcCsum := some (frameChecksum s.params f)
      pend := pd }

/-- DECODE skips the garbage, receives the frame and ends OK, in R153's count of turns. -/
theorem turnsTo_decoded {s : State} {G T : List Byte} {f : Frame} (hf : s.fault = none)
    (hwf : f.wf = true) (hG : ¬ [0x55, 0xAA] <:+: G) (hq : s.rxq = G ++ frameBytes s.params f ++ T) :
    ∃ i pd, TurnsTo (G.length + 7 + f.payload.length + drainTurns s.params.remainderPolicy T)
      (accept .decode s) ((accept .decode s).decoded f T i pd) := by
  let t := accept .decode s
  let k := frameChecksum s.params f
  obtain ⟨i, hrun⟩ := turnsTo_received (s := t) (k := k) hf rfl hwf hG hq
  have hcsum (a : SinkAnswer) : engineTurn a (t.received f i (k :: T)) =
      terminal .ok true true
        { t.received f i T with rxCsum := some k, calcCsum := some k } :=
    engineTurn_csumOk hf rfl rfl rfl
  obtain ⟨pd, hend⟩ := turnsTo_terminal .ok true true
    (s := { t.received f i T with rxCsum := some k, calcCsum := some k }) hf
  refine ⟨i, pd, ?_⟩
  rw [show G.length + 7 + f.payload.length + drainTurns s.params.remainderPolicy T =
    G.length + 6 + f.payload.length + (drainTurns s.params.remainderPolicy T + 1) by omega]
  exact hrun.trans (.step hcsum hend)

theorem decoded_rxHolds {f : Frame} (hwf : f.wf = true) (T : List Byte) (i : FrameIndex)
    (pd : Pending) (s : State) : RxHolds (s.decoded f T i pd) f (frameChecksum s.params f) :=
  received_rxHolds hwf i _ (undrained s.params.remainderPolicy T) s

/-- DECODE writes RX_BUF below the frame's length alone, and no operand. -/
theorem decoded_read_other {f : Frame} {x : Nat} (h : 0x400 + f.payload.length ≤ x) (T : List Byte)
    (i : FrameIndex) (pd : Pending) (s : State) :
    Memory.read (s.decoded f T i pd).mem x = Memory.read s.mem x :=
  Memory.read_writeRun_other (.inr h)

theorem decoded_sameOperands {f : Frame} (hwf : f.wf = true) (T : List Byte) (i : FrameIndex)
    (pd : Pending) (s : State) : SameOperands s (s.decoded f T i pd) := by
  refine ⟨rfl, rfl, rfl, rfl, rfl, fun j => decoded_read_other ?_ T i pd s⟩
  have := frame_wf_iff.1 hwf
  obtain ⟨lo, -⟩ := txBufAddr_range j
  omega

/-- Settles O36: the run from the accepted write ends in `decoded`, whose fields are the frame's. -/
theorem decodeFindsTheFrameAfterGarbage : Obligations.DecodeFindsTheFrameAfterGarbage := by
  intro s G T f answers hf hb hwf hG hq hlen
  obtain ⟨i, pd, hrun⟩ := turnsTo_decoded hf hwf hG hq
  refine ⟨accept .decode s, ctrlWrite_idle hf hb _, ?_⟩
  rw [hrun answers hlen]
  exact ⟨rfl, rfl, hf, decoded_rxHolds hwf T i pd _, rfl, rfl, rfl,
    decoded_sameOperands hwf T i pd (accept .decode s),
    fun j hj => decoded_read_other (Nat.add_le_add_left hj _) T i pd (accept .decode s)⟩

end Sys2Proof.Machine
end

section
/-! SUPPORT. A transmission under a sink that accepts every byte (43_frame_encode R109-R114): each turn of
TX_EMIT sends the frame's next byte, the checksum included. -/

namespace Sys2Proof.Machine

open Sys2Proof

/-! ### The invariants along a run of the engine -/

theorem engineRun_rangeInv {s : State} (h : RangeInv s) (as : List SinkAnswer) :
    RangeInv (engineRun as s) := by
  induction as generalizing s with
  | nil => exact h
  | cons a as ih => exact ih ((engineTurn_effect a s).rangeInv h)

theorem engineRun_transmitInv {s : State} (hr : RangeInv s) (ht : TransmitInv s)
    (as : List SinkAnswer) : TransmitInv (engineRun as s) := by
  induction as generalizing s with
  | nil => exact ht
  | cons a as ih =>
    have e := engineTurn_effect a s
    exact ih (e.rangeInv hr) (e.transmitInv hr ht)

/-! ### The byte offered (R109, R113) -/

/-- The operands and the latched length are those of frame `f`. -/
def Transmits (s : State) (f : Frame) : Prop :=
  f.version = s.txVer ∧ f.command = s.txCmd ∧ f.payload.length = s.len.toNat ∧
  Memory.readRun s.mem 0x800 s.len.toNat = .ok f.payload

/-- Past the payload the accumulator is the frame's checksum (41_checksum R85). -/
theorem acc_eq_frameChecksum {s : State} {f : Frame} (hp : s.phase = .txEmit) (ht : TransmitInv s)
    (hf : Transmits s f) (hidx : s.idx.toNat = 6 + s.len.toNat) :
    s.acc = frameChecksum s.params f := by
  obtain ⟨hver, hcmd, hlen, hrun⟩ := hf
  obtain ⟨-, P, hP, hacc⟩ := transmitInv_iff.1 ht hp
  have hL : BitVec.ofNat 16 f.payload.length = s.len := by simp [hlen]
  obtain rfl : f.payload = P := by
    rw [hidx, Nat.add_sub_cancel_left, hrun] at hP
    exact Except.ok.inj hP
  have hwhole : s.txHeader.take (s.idx.toNat - 2) = s.txHeader :=
    List.take_of_length_le (by simp [State.txHeader]; omega)
  rw [hacc, hwhole, frameChecksum, hL, hver, hcmd, checksum_eq_sum8, summedBytes, sum8_append,
    BitVec.add_assoc, State.txHeader]

/-- TX_EMIT offers its position of the frame the operands hold. -/
theorem offered_eq_frameByte {s : State} {f : Frame} (hp : s.phase = .txEmit) (hr : RangeInv s)
    (ht : TransmitInv s) (hf : Transmits s f) :
    s.offered = .ok (frameByte s.params f s.idx.toNat) := by
  have ⟨hver, hcmd, hlen, hrun⟩ := hf
  obtain ⟨-, -, hemit, -⟩ := hr
  obtain ⟨hidx, hle⟩ := hemit hp
  have hL : BitVec.ofNat 16 f.payload.length = s.len := by simp [hlen]
  match hk : s.idx.toNat with
  | 0 | 1 => simp only [State.offered, hk, frameByte]
  | 2 | 3 => simp only [State.offered, hk, frameByte, hver, hcmd]
  | 4 | 5 => simp only [State.offered, hk, frameByte, hL]
  | n + 6 =>
    rw [frameByte_add_six]
    rcases Nat.lt_or_eq_of_le (show n ≤ s.len.toNat by omega) with hn | hn
    · have hbuf : (bufIndex n).toNat = n := by
        rw [bufIndex_toNat]
        omega
      have hread := (Memory.readRun_ok_iff.1 hrun).2 n hn
      rw [offered_payload (i := bufIndex n) (by omega) (by omega), txBufAddr, hbuf, hread,
        List.getElem?_eq_getElem (hlen ▸ hn), List.getD_eq_getElem _ _ (hlen ▸ hn)]
      rfl
    · have hend : s.idx.toNat = 6 + s.len.toNat := by omega
      rw [offered_checksum hend, acc_eq_frameChecksum hp ht hf hend,
        List.getD_eq_default _ _ (by omega)]

/-! ### The run -/

theorem engineTurn_accepted {s : State} {b : Byte} (hf : s.fault = none) (hp : s.phase = .txEmit)
    (ho : s.offered = .ok b) : engineTurn .accept s = txAccepted b s := by
  simp only [engineTurn_txEmit hf hp, txEmitStep, ho]

/-- `s` with the first `n` bytes of `f` sent and the accumulator at `acc`. -/
def State.sent (f : Frame) (n : Nat) (acc : Byte) (s : State) : State :=
  { s with
    idx := BitVec.ofNat 11 n
    acc := acc
    txlog := s.txlog ++ ((frameBytes s.params f).take n).map TxEvent.byte }

theorem sent_zero {s : State} (f : Frame) (hidx : s.idx = 0) : s.sent f 0 s.acc = s := by
  have hlog : s.txlog ++ ((frameBytes s.params f).take 0).map TxEvent.byte = s.txlog :=
    List.append_nil _
  have hzero : BitVec.ofNat 11 0 = s.idx := hidx.symm
  rw [State.sent, hlog, hzero]

theorem sent_idx_toNat {f : Frame} {n : Nat} (h : n < 2048) (acc : Byte) (s : State) :
    (s.sent f n acc).idx.toNat = n := Nat.mod_eq_of_lt h

theorem sent_log_succ (p : Params) {f : Frame} {n : Nat} (hn : n ≤ 6 + f.payload.length) :
    ((frameBytes p f).take (n + 1)).map TxEvent.byte =
      ((frameBytes p f).take n).map TxEvent.byte ++ [.byte (frameByte p f n)] := by
  rw [List.take_add_one, frameBytes_getElem?_eq_frameByte p f hn, List.map_append]
  rfl

/-- The sink takes the frame's byte at position `n`. -/
theorem txAccepted_sent {s : State} {f : Frame} {n : Nat} (hn : n < 6 + f.payload.length)
    (hlen : f.payload.length = s.len.toNat) (hle : s.len.toNat ≤ 1024) (acc : Byte) :
    txAccepted (frameByte s.params f n) (s.sent f n acc) =
      s.sent f (n + 1) (if 2 ≤ n then acc + frameByte s.params f n else acc) := by
  have hidx : (s.sent f n acc).idx.toNat = n := sent_idx_toNat (by omega) acc s
  have hlt : (s.sent f n acc).idx.toNat < 6 + s.len.toNat := by omega
  rw [txAccepted_before hlt, hidx]
  simp only [State.sent, sent_log_succ s.params (Nat.le_of_lt hn), BitVec.ofNat_add,
    List.append_assoc]
  rfl

/-- The first `n` accepted offers, up to the checksum's, send the frame's first `n` bytes. -/
theorem engineRun_sent {s : State} {f : Frame} (hf : s.fault = none) (hp : s.phase = .txEmit)
    (hidx : s.idx = 0) (hr : RangeInv s) (ht : TransmitInv s) (hs : Transmits s f) (n : Nat)
    (hn : n ≤ 6 + f.payload.length) :
    ∃ acc, engineRun (List.replicate n .accept) s = s.sent f n acc := by
  have ⟨_, _, hlen, _⟩ := hs
  have ⟨_, _, hemit, _⟩ := hr
  obtain ⟨-, hle⟩ := hemit hp
  induction n with
  | zero => exact ⟨s.acc, (sent_zero f hidx).symm⟩
  | succ n ih =>
    obtain ⟨acc, hrun⟩ := ih (by omega)
    have hru : RangeInv (s.sent f n acc) := by rw [← hrun]; exact engineRun_rangeInv hr _
    have htu : TransmitInv (s.sent f n acc) := by rw [← hrun]; exact engineRun_transmitInv hr ht _
    have ho := offered_eq_frameByte (s := s.sent f n acc) hp hru htu hs
    rw [sent_idx_toNat (by omega)] at ho
    refine ⟨if 2 ≤ n then acc + frameByte s.params f n else acc, ?_⟩
    calc engineRun (List.replicate (n + 1) .accept) s
        = engineTurn .accept (s.sent f n acc) := by
          rw [List.replicate_succ', engineRun_append, hrun, engineRun_cons, engineRun_nil]
      _ = txAccepted (frameByte s.params f n) (s.sent f n acc) :=
          engineTurn_accepted (s := s.sent f n acc) hf hp ho
      _ = _ := txAccepted_sent (by omega) hlen hle acc

/-- The wire bytes are those before the checksum, and the checksum (R61). -/
theorem frameBytes_take_append_checksum (p : Params) (f : Frame) :
    (frameBytes p f).take (6 + f.payload.length) ++ [frameChecksum p f] = frameBytes p f := by
  have hlast : (frameBytes p f)[6 + f.payload.length]? = some (frameChecksum p f) := by
    rw [Nat.add_comm, frameBytes_getElem?_add_six, List.getElem?_concat_length]
  calc (frameBytes p f).take (6 + f.payload.length) ++ [frameChecksum p f]
      = (frameBytes p f).take (6 + f.payload.length + 1) := by rw [List.take_add_one, hlast]; rfl
    _ = frameBytes p f := List.take_of_length_le (by rw [frameBytes_length]; omega)

/-- Where a transmission of `f` that started in `s` ends: every byte and one Flush sent. -/
def State.transmitted (f : Frame) (s : State) : State :=
  complete .ok false false
    { s with
      len := BitVec.ofNat 16 f.payload.length
      idx := BitVec.ofNat 11 (6 + f.payload.length)
      acc := frameChecksum s.params f
      calcCsum := some (frameChecksum s.params f)
      txlog := s.txlog ++ (frameBytes s.params f).map TxEvent.byte ++ [.flush] }

/-- The last two turns: the checksum byte and the Flush (R113, R114). -/
theorem engineRun_checksumAndFlush {s : State} {f : Frame} (hf : s.fault = none)
    (hp : s.phase = .txEmit) (hwf : f.wf = true) (hlen : s.len = BitVec.ofNat 16 f.payload.length) :
    engineRun [.accept, .accept] (s.sent f (6 + f.payload.length) (frameChecksum s.params f)) =
      s.transmitted f := by
  let k := frameChecksum s.params f
  let u := s.sent f (6 + f.payload.length) k
  let v : State := { u with txlog := u.txlog ++ [.byte k], calcCsum := some k, phase := .txFlush }
  have hle := frame_wf_iff.1 hwf
  have hidx : u.idx.toNat = 6 + f.payload.length := sent_idx_toNat (by omega) k s
  have hL : u.len.toNat = f.payload.length :=
    (congrArg BitVec.toNat hlen).trans (frameLength_toNat hwf)
  have hend : u.idx.toNat = 6 + u.len.toNat := by rw [hidx, hL]
  have hlast : engineTurn .accept u = v :=
    (engineTurn_accepted (s := u) hf hp (offered_checksum hend)).trans (txAccepted_last hend k)
  have hflush : engineTurn .accept v = complete .ok false false (v.emit .flush) :=
    engineTurn_txFlush (s := v) hf rfl
  have hlog : v.txlog = s.txlog ++ (frameBytes s.params f).map TxEvent.byte := by
    simp only [v, u, State.sent, List.append_assoc]
    rw [← List.map_singleton (f := TxEvent.byte), ← List.map_append,
      frameBytes_take_append_checksum]
  calc engineRun [.accept, .accept] u = complete .ok false false (v.emit .flush) := by
        rw [engineRun_cons, hlast, engineRun_cons, hflush, engineRun_nil]
    _ = s.transmitted f := by
        rw [State.emit, hlog, State.transmitted, ← hlen]
        rfl

/-- A transmission of frame `f`, from TX_START through R153's count of turns. -/
theorem engineRun_transmitted {s : State} {f : Frame} (hf : s.fault = none)
    (hp : s.phase = .txStart) (hwf : f.wf = true) (hver : s.txVer = f.version)
    (hcmd : s.txCmd = f.command) (hlen : s.encodeLen = BitVec.ofNat 16 f.payload.length)
    (hrun : Memory.readRun s.mem 0x800 f.payload.length = .ok f.payload) :
    engineRun (List.replicate (9 + f.payload.length) .accept) s = s.transmitted f := by
  let t : State := { s with len := s.encodeLen, idx := 0, acc := seed s.params, phase := .txEmit }
  have hL : t.len.toNat = f.payload.length :=
    (congrArg BitVec.toNat hlen).trans (frameLength_toNat hwf)
  have hle : t.len.toNat ≤ 1024 := hL ▸ frame_wf_iff.1 hwf
  have hstart : engineTurn .accept s = t := by
    rw [engineTurn_txStart hf hp]
    exact if_neg (Nat.not_lt.2 hle)
  have hr : RangeInv t := ⟨nofun, nofun, fun _ => ⟨Nat.zero_le _, hle⟩, nofun⟩
  have hs : Transmits t f := ⟨hver.symm, hcmd.symm, hL.symm, by rw [hL]; exact hrun⟩
  obtain ⟨acc, hsent⟩ :=
    engineRun_sent (s := t) hf rfl rfl hr (txStart_transmitInv s) hs _ (Nat.le_refl _)
  have hacc : acc = frameChecksum s.params f := by
    have ht := engineRun_transmitInv hr (txStart_transmitInv s)
      (List.replicate (6 + f.payload.length) .accept)
    rw [hsent] at ht
    refine acc_eq_frameChecksum (s := t.sent f (6 + f.payload.length) acc) rfl ht hs ?_
    have := frame_wf_iff.1 hwf
    exact (sent_idx_toNat (by omega) acc t).trans (by rw [← hL]; rfl)
  have hturns : List.replicate (9 + f.payload.length) SinkAnswer.accept =
      .accept :: (List.replicate (6 + f.payload.length) .accept ++ [.accept, .accept]) := by
    rw [show 9 + f.payload.length = (6 + f.payload.length + 2) + 1 by omega, List.replicate_succ,
      List.replicate_add]
    rfl
  rw [hturns, engineRun_cons, hstart, engineRun_append, hsent, hacc]
  exact engineRun_checksumAndFlush (s := t) hf rfl hwf hlen

end Sys2Proof.Machine
end

section
/-! SUPPORT. What ENCODE sends is what DECODE receives (42_frame_decode R107), with the obligation about it. -/

namespace Sys2Proof.Machine

open Sys2Proof

theorem loggedBytes_bytes_append (bs : List Byte) (es : List TxEvent) :
    loggedBytes (bs.map TxEvent.byte ++ es) = bs ++ loggedBytes es := by
  induction bs with
  | nil => rfl
  | cons b bs ih => exact congrArg (b :: ·) ih

/-- Of the parameters, a checksum sees CSUM_INCLUDES_SYNC alone (R82). -/
theorem frameChecksum_congr {p q : Params} (h : p.csumIncludesSync = q.csumIncludesSync)
    (f : Frame) : frameChecksum p f = frameChecksum q f := by
  simp only [frameChecksum, checksum, seed, h]

theorem frameBytes_congr {p q : Params} (h : p.csumIncludesSync = q.csumIncludesSync)
    (f : Frame) : frameBytes p f = frameBytes q f := by
  rw [frameBytes_eq, frameBytes_eq, frameChecksum_congr h]

/-- ENCODE of the frame the operands hold, every byte accepted. -/
theorem exec_encode_transmitted {s : State} {f : Frame} (hf : s.fault = none) (h : TxHolds s f) :
    engineRun (List.replicate (9 + f.payload.length) .accept) (accept .encode s) =
      (accept .encode s).transmitted f := by
  obtain ⟨hwf, hver, hcmd, hlen, hrun⟩ := h
  exact engineRun_transmitted hf rfl hwf hver hcmd hlen hrun

/-- A frame's bytes alone in RXQ are decoded within one turn of drain, under either policy. -/
theorem turnsTo_decoded_alone {r : State} {f : Frame} (hf : r.fault = none) (hwf : f.wf = true)
    (hq : r.rxq = frameBytes r.params f) :
    ∃ i pd, TurnsTo (8 + f.payload.length) (accept .decode r)
      ((accept .decode r).decoded f [] i pd) := by
  have hq' : r.rxq = [] ++ frameBytes r.params f ++ [] := by simpa using hq
  obtain ⟨i, pd, hrun⟩ := turnsTo_decoded hf hwf (by decide) hq'
  refine ⟨i, pd, ?_⟩
  have hdrain : drainTurns r.params.remainderPolicy [] ≤ 1 := by
    cases r.params.remainderPolicy <;> decide
  rw [List.length_nil] at hrun
  rw [show 8 + f.payload.length = 0 + 7 + f.payload.length +
    drainTurns r.params.remainderPolicy [] + (1 - drainTurns r.params.remainderPolicy []) by omega]
  exact hrun.idle rfl

theorem undrained_nil (p : RemainderPolicy) : undrained p [] = [] := by
  cases p <;> rfl

/-- Settles O47: ENCODE's log is the frame's bytes, which DECODE alone in RXQ takes to the frame. -/
theorem decodeOfEncodeIsTheFrame : Obligations.DecodeOfEncodeIsTheFrame := by
  intro s r f hf hb hs hfr hbr hsync
  have ⟨hwf, _⟩ := hs
  refine ⟨accept .encode s, (accept .encode s).transmitted f, ctrlWrite_idle hf hb _,
    exec_encode_transmitted hf hs, (frameBytes s.params f).map TxEvent.byte ++ [TxEvent.flush],
    List.append_assoc s.txlog ((frameBytes s.params f).map TxEvent.byte) [TxEvent.flush],
    fun hq answers hlen => ?_⟩
  have hq' : r.rxq = frameBytes r.params f := by
    rw [hq, loggedBytes_bytes_append, frameBytes_congr hsync]
    exact List.append_nil _
  obtain ⟨i, pd, hrun⟩ := turnsTo_decoded_alone hfr hwf hq'
  refine ⟨accept .decode r, ctrlWrite_idle hfr hbr _, ?_⟩
  rw [hrun answers hlen, ← frameChecksum_congr hsync f]
  exact ⟨rfl, undrained_nil _, decoded_rxHolds hwf [] i pd (accept .decode r)⟩

end Sys2Proof.Machine
end

section
/-! SUPPORT. ENCODE and ENCODE_EMPTY (43_frame_encode R109-R115): the turns that start and flush a transmission,
whole transmissions, the fault at an unwritten byte, and what a transmit turn leaves, with the obligations about
them. -/

namespace Sys2Proof.Machine

open Sys2Proof

/-! ### The start and the flush (R112, R114) -/

theorem encodeLen_of_ne {s : State} (h : s.op ≠ .encodeEmpty) : s.encodeLen = s.txLen := by
  unfold State.encodeLen
  split
  · contradiction
  · rfl

theorem encodeLen_encodeEmpty {s : State} (h : s.op = .encodeEmpty) : s.encodeLen = 0 := by
  simp only [State.encodeLen, h]

theorem txStartStep_tooLarge {s : State} (h : 1024 < s.encodeLen.toNat) :
    txStartStep s = complete .tooLarge false false s := if_pos h

theorem txStartStep_starts {s : State} (h : s.encodeLen.toNat ≤ 1024) :
    txStartStep s =
      { s with len := s.encodeLen, idx := 0, acc := seed s.params, phase := .txEmit } :=
  if_neg (Nat.not_lt.2 h)

/-- Settles O40: TX_START by the length it takes, and TX_FLUSH's completion. -/
theorem transmissionStartsAndFlushes : Obligations.TransmissionStartsAndFlushes := by
  intro a s hf
  refine ⟨fun hp ho hlen => ?_, fun hp ho hlen => ?_, fun hp ho => ?_, fun hp => ?_⟩
  · have hL := encodeLen_of_ne ho
    rw [engineTurn_txStart hf hp, txStartStep_tooLarge (hL ▸ hlen)]
    rfl
  · have hL := encodeLen_of_ne ho
    rw [engineTurn_txStart hf hp, txStartStep_starts (hL ▸ hlen), hL]
    rfl
  · have hL := encodeLen_encodeEmpty ho
    rw [engineTurn_txStart hf hp, txStartStep_starts (by rw [hL]; decide), hL]
    rfl
  · exact engineTurn_txFlush hf hp

/-! ### What a transmit turn leaves (R112-R114) -/

/-- What a turn in a transmit phase can change: STATUS, CALC_CSUM, TXLOG, the fault mark and the engine's own
fields but pend. -/
def TransmitFrame (s t : State) : Prop :=
  t = { s with status := t.status, calcCsum := t.calcCsum, txlog := t.txlog, fault := t.fault,
               phase := t.phase, op := t.op, len := t.len, idx := t.idx, acc := t.acc }

theorem phaseFits_encode_iff {p : Phase} :
    phaseFits .encode p = true ↔ p = .txStart ∨ p = .txEmit ∨ p = .txFlush := by
  cases p <;> decide

theorem txStartStep_frame (s : State) : TransmitFrame s (txStartStep s) := by
  unfold txStartStep
  split <;> rfl

theorem txAccepted_frame (b : Byte) (s : State) : TransmitFrame s (txAccepted b s) := by
  unfold txAccepted
  dsimp only
  split <;> split <;> rfl

theorem txEmitStep_frame (a : SinkAnswer) (s : State) : TransmitFrame s (txEmitStep a s) := by
  obtain ⟨f, -, h⟩ | ⟨-, h⟩ | ⟨-, h⟩ | ⟨-, b, -, h⟩ := txEmitStep_cases a s <;> rw [h]
  · rfl
  · rfl
  · rfl
  · exact txAccepted_frame b s

theorem engineTurn_transmitFrame (a : SinkAnswer) {s : State}
    (hp : phaseFits .encode s.phase = true) : TransmitFrame s (engineTurn a s) := by
  by_cases hf : s.fault = none
  · rcases phaseFits_encode_iff.1 hp with hp | hp | hp
    · rw [engineTurn_txStart hf hp]
      exact txStartStep_frame s
    · rw [engineTurn_txEmit hf hp]
      exact txEmitStep_frame a s
    · rw [engineTurn_txFlush hf hp]
      rfl
  · rw [engineTurn_faulted hf]
    rfl

/-- Settles O51, field by field of the frame. -/
theorem transmitTurnsLeaveTheRest : Obligations.TransmitTurnsLeaveTheRest := by
  intro a s hp
  rw [engineTurn_transmitFrame a hp]
  exact ⟨rfl, rfl, rfl, ⟨rfl, rfl, rfl, rfl, rfl, fun _ => rfl⟩,
    ⟨rfl, rfl, rfl, rfl, rfl, fun _ => rfl⟩, rfl, rfl, rfl, rfl⟩

/-! ### The byte offered (R109, R113) -/

/-- Settles O59: the offer is FrameByte(idx), and idx is a position of the frame. -/
theorem offeredByteIsTheFramesByte : Obligations.OfferedByteIsTheFramesByte := by
  intro s b f hp hc ht hver hcmd hlen hrun ho
  obtain ⟨-, hr, -⟩ := hc
  have ⟨_, _, hemit, _⟩ := hr
  obtain ⟨hidx, -⟩ := hemit hp
  have hb := offered_eq_frameByte hp hr ht ⟨hver, hcmd, hlen, hrun⟩
  rw [ho] at hb
  rw [Except.ok.inj hb]
  exact frameBytes_getElem?_eq_frameByte s.params f (by omega)

/-! ### Whole transmissions (R110, R111) -/

/-- What an operation whose transmission of `f` is complete leaves behind. -/
theorem accept_transmitted_outcome (o : Operation) (f : Frame) (s : State) :
    let u := (accept o s).transmitted f
    u.status = ⟨false, false, false, false, .ok⟩ ∧ u.phase = .idle ∧ u.op = .none ∧
      u.fault = s.fault ∧
      u.txlog = s.txlog ++ (frameBytes s.params f).map TxEvent.byte ++ [.flush] ∧
      u.calcCsum = some (frameChecksum s.params f) ∧
      u.mem = s.mem ∧ u.rxq = s.rxq ∧ SameOperands s u ∧ SameRx s u ∧ SameRest s u :=
  ⟨rfl, rfl, rfl, rfl, rfl, rfl, rfl, rfl, .refl s, ⟨rfl, rfl, rfl, rfl, rfl, fun _ => rfl⟩,
    rfl, rfl, rfl, rfl⟩

/-- Settles O42, by ENCODE's transmission of the frame. -/
theorem encodeSendsTheFrame : Obligations.EncodeSendsTheFrame := by
  intro s f hf hb hs
  have h := accept_transmitted_outcome .encode f s
  rw [hf] at h
  exact ⟨accept .encode s, _, ctrlWrite_idle hf hb _, exec_encode_transmitted hf hs, h⟩

/-- ENCODE_EMPTY transmits the frame with no payload, every byte accepted. -/
theorem exec_encodeEmpty_transmitted {s : State} (hf : s.fault = none) :
    engineRun (List.replicate 9 .accept) (accept .encodeEmpty s) =
      (accept .encodeEmpty s).transmitted ⟨s.txVer, s.txCmd, []⟩ :=
  engineRun_transmitted (s := accept .encodeEmpty s) (f := ⟨s.txVer, s.txCmd, []⟩)
    hf rfl rfl rfl rfl rfl rfl

/-- Settles O43, by ENCODE_EMPTY's transmission of the frame with no payload. -/
theorem encodeEmptySendsTheEmptyFrame : Obligations.EncodeEmptySendsTheEmptyFrame := by
  intro s hf hb
  have h := accept_transmitted_outcome .encodeEmpty ⟨s.txVer, s.txCmd, []⟩ s
  rw [hf] at h
  exact ⟨accept .encodeEmpty s, _, ctrlWrite_idle hf hb _, exec_encodeEmpty_transmitted hf, h⟩

/-! ### The fault at an unwritten payload byte (R113, 60_exceptions R127) -/

/-- The operands hold frame `f`, and of its payload the first `m` bytes are written. -/
def TransmitsPrefix (s : State) (f : Frame) (m : Nat) : Prop :=
  f.version = s.txVer ∧ f.command = s.txCmd ∧ f.payload.length = s.len.toNat ∧
  ∀ j < m, Memory.read s.mem (0x800 + j) = f.payload[j]?

/-- A position before the first unwritten payload byte offers the frame's byte. -/
theorem offered_of_transmitsPrefix {s : State} {f : Frame} {m : Nat} (h : TransmitsPrefix s f m)
    (hm : m ≤ s.len.toNat) (hlen : s.len.toNat ≤ 1024) (hidx : s.idx.toNat < 6 + m) :
    s.offered = .ok (frameByte s.params f s.idx.toNat) := by
  obtain ⟨hver, hcmd, hpay, hread⟩ := h
  have hL : BitVec.ofNat 16 f.payload.length = s.len := by simp [hpay]
  refine IsByteOfPosition.offered
    ⟨fun h => ?_, fun h => ?_, fun h => ?_, fun h => ?_, fun h => ?_, fun h => ?_, fun h6 _ => ?_,
      fun h => absurd h (by omega)⟩ hlen (by omega)
  · rw [h]; rfl
  · rw [h]; rfl
  · rw [h, ← hver]; rfl
  · rw [h, ← hcmd]; rfl
  · rw [h, ← hL]; exact hiByte_toNat _
  · rw [h, ← hL]; exact loByte_toNat _
  · obtain ⟨j, hj⟩ := Nat.exists_eq_add_of_le' h6
    have hjlen : j < f.payload.length := by omega
    rw [hj, Nat.add_sub_cancel, hread j (by omega), frameByte_add_six,
      List.getD_eq_getElem _ _ hjlen, List.getElem?_eq_getElem hjlen]

/-- The accepted offers before the first unwritten payload byte send the frame's bytes up to it. -/
theorem engineRun_sentPrefix {s : State} {f : Frame} {m : Nat} (hf : s.fault = none)
    (hp : s.phase = .txEmit) (hidx : s.idx = 0) (h : TransmitsPrefix s f m)
    (hm : m ≤ s.len.toNat) (hlen : s.len.toNat ≤ 1024) {n : Nat} (hn : n ≤ 6 + m) :
    ∃ acc, engineRun (List.replicate n .accept) s = s.sent f n acc := by
  have ⟨_, _, hpay, _⟩ := h
  induction n with
  | zero => exact ⟨s.acc, (sent_zero f hidx).symm⟩
  | succ n ih =>
    obtain ⟨acc, hrun⟩ := ih (by omega)
    have hpos : (s.sent f n acc).idx.toNat = n := sent_idx_toNat (by omega) acc s
    have ho := offered_of_transmitsPrefix (s := s.sent f n acc) h hm hlen (by omega)
    rw [hpos] at ho
    refine ⟨if 2 ≤ n then acc + frameByte s.params f n else acc, ?_⟩
    rw [List.replicate_succ', engineRun_append, hrun, engineRun_cons, engineRun_nil,
      engineTurn_accepted (s := s.sent f n acc) hf hp ho]
    exact txAccepted_sent (by omega) hpay hlen acc

/-- The turn after those reaches the unwritten byte, which is its fault (R113). -/
theorem engineRun_unwritten {s : State} {f : Frame} {i : BufIndex} (hf : s.fault = none)
    (hp : s.phase = .txEmit) (hidx : s.idx = 0) (h : TransmitsPrefix s f i.toNat)
    (hi : i.toNat < s.len.toNat) (hlen : s.len.toNat ≤ 1024)
    (hnone : Memory.read s.mem (0x800 + i.toNat) = none) :
    ∃ acc, engineRun (List.replicate (6 + i.toNat + 1) .accept) s =
      (s.sent f (6 + i.toNat) acc).raise (.unwritten (.txBuf i)) := by
  obtain ⟨acc, hsent⟩ := engineRun_sentPrefix hf hp hidx h (Nat.le_of_lt hi) hlen (Nat.le_refl _)
  have hpos : (s.sent f (6 + i.toNat) acc).idx.toNat = 6 + i.toNat :=
    sent_idx_toNat (by omega) acc s
  obtain ⟨hfault, -⟩ := sinkAnswersDecideTheOffer (s.sent f (6 + i.toNat) acc) hf hp hlen
    (hpos.trans_le (Nat.add_le_add_left (Nat.le_of_lt hi) 6))
  refine ⟨acc, ?_⟩
  rw [List.replicate_succ', engineRun_append, hsent, engineRun_cons, engineRun_nil]
  exact hfault .accept i hpos hi hnone

/-- A frame of length `n` whose payload begins with the written bytes `P`; its later bytes stand for the
unwritten ones, which nothing reads. -/
def extendedFrame (s : State) (P : List Byte) (n : Nat) : Frame :=
  ⟨s.txVer, s.txCmd, P ++ List.replicate (n - P.length) 0⟩

theorem extendedFrame_length {P : List Byte} {n : Nat} (h : P.length ≤ n) (s : State) :
    (extendedFrame s P n).payload.length = n := by
  simp only [extendedFrame, List.length_append, List.length_replicate]
  omega

theorem frameBytes_take_extendedFrame {P : List Byte} {L : U16} (h : P.length ≤ L.toNat)
    (p : Params) (s : State) :
    (frameBytes p (extendedFrame s P L.toNat)).take (6 + P.length) =
      [0x55, 0xAA, s.txVer, s.txCmd, hiByte L, loByte L] ++ P := by
  have hL : BitVec.ofNat 16 (extendedFrame s P L.toNat).payload.length = L := by
    rw [extendedFrame_length h, BitVec.ofNat_toNat, BitVec.setWidth_eq]
  rw [frameBytes_eq, hL, Nat.add_comm]
  simp [extendedFrame]

/-- Settles O45: TX_START, the header and the written payload bytes, then the fault. -/
theorem encodeFaultsAtItsFirstUnwrittenByte : Obligations.EncodeFaultsAtItsFirstUnwrittenByte := by
  intro s P i hf hb hle hi hrun hnone
  let t : State := { accept .encode s with
    len := s.txLen, idx := 0, acc := seed s.params, phase := .txEmit }
  obtain ⟨hP, hread⟩ := Memory.readRun_ok_iff.1 hrun
  have hPL : P.length ≤ s.txLen.toNat := by omega
  have hstart : engineTurn .accept (accept .encode s) = t :=
    (engineTurn_txStart (s := accept .encode s) hf rfl).trans (txStartStep_starts hle)
  have hpre : TransmitsPrefix t (extendedFrame s P s.txLen.toNat) i.toNat :=
    ⟨rfl, rfl, extendedFrame_length hPL s, fun j hj =>
      (hread j hj).trans (List.getElem?_append_left (hP ▸ hj)).symm⟩
  obtain ⟨acc, hend⟩ := engineRun_unwritten (s := t) hf rfl rfl hpre hi hle hnone
  have hbytes := frameBytes_take_extendedFrame hPL s.params s
  rw [hP] at hbytes
  refine ⟨accept .encode s, _, ctrlWrite_idle hf hb _, rfl, ?_⟩
  rw [show 8 + i.toNat = 6 + i.toNat + 1 + 1 by omega, List.replicate_succ, engineRun_cons, hstart,
    hend, ← hbytes]
  exact ⟨rfl, rfl, rfl⟩

end Sys2Proof.Machine
end

section
/-! SUPPORT. How a DECODE that finds no valid frame ends (60_exceptions R118-R120; 42_frame_decode R100, R102):
NO_DATA, OVERFLOW or CHECKSUM_MISMATCH, whatever the sink answers, with the obligations about them. -/

namespace Sys2Proof.Machine

open Sys2Proof

/-- A run that reaches a terminal outcome publishes it, one turn and the drain later. -/
theorem TurnsTo.publish {n : Nat} {s t u : State} {c : Result} {v m : Bool} (h : TurnsTo n s t)
    (hturn : ∀ a, engineTurn a t = terminal c v m u) (hf : u.fault = none) :
    ∃ pd, TurnsTo (n + 1 + drainTurns u.params.remainderPolicy u.rxq) s
      (complete c v m
        { u with rxq := undrained u.params.remainderPolicy u.rxq, pend := pd }) := by
  obtain ⟨pd, hend⟩ := turnsTo_terminal c v m hf
  exact ⟨pd, (h.trans (.one hturn)).trans hend⟩

/-! ### No marker (R118) -/

/-- A search through bytes without the marker takes them all and ends NO_DATA. -/
theorem turnsTo_noData {s : State} (hf : s.fault = none) (hp : s.phase = .rxHunt)
    (hG : ¬ [0x55, 0xAA] <:+: s.rxq) :
    TurnsTo (s.rxq.length + 1) s (complete .noData false false { s with rxq := [] }) := by
  obtain ⟨p, hsearch, hrun⟩ := turnsTo_search hf (.inl ⟨hp, hG⟩) (List.append_nil s.rxq).symm
  exact hrun.trans (.one fun _ => engineTurn_noData hf hsearch rfl)

/-- Settles O39, by the search from the accepted write. -/
theorem decodeReportsNoData : Obligations.DecodeReportsNoData := by
  intro s answers hf hb hG hlen
  exact ⟨accept .decode s, ctrlWrite_idle hf hb _,
    turnsTo_noData (s := accept .decode s) hf rfl hG answers hlen⟩

/-! ### A declared length over 1024 (R105, R120) -/

/-- Garbage, the marker and a header whose length is over 1024 end OVERFLOW, the header recorded. -/
theorem turnsTo_overflow {s : State} {ver cmd hi lo : Byte} {G T : List Byte} (hf : s.fault = none)
    (hp : s.phase = .rxHunt) (hG : ¬ [0x55, 0xAA] <:+: G)
    (hlen : 1024 < hi.toNat * 256 + lo.toNat)
    (hq : s.rxq = G ++ [0x55, 0xAA, ver, cmd, hi, lo] ++ T) :
    ∃ acc pd, TurnsTo (G.length + 6 + drainTurns s.params.remainderPolicy T) s
      (complete .overflow false false
        { s with rxVer := some ver, rxCmd := some cmd, rxLenHi := some hi, rxLenLo := some lo,
                 rxq := undrained s.params.remainderPolicy T, acc := acc, len := u16 hi lo,
                 pend := pd, phase := .rxLenL }) := by
  have hq' : s.rxq = G ++ 0x55 :: 0xAA :: ver :: cmd :: hi :: lo :: T := by simp [hq]
  rw [← u16_toNat] at hlen
  let t : State :=
    { s with rxq := lo :: T, rxVer := some ver, rxCmd := some cmd, rxLenHi := some hi,
             acc := seed s.params + ver + cmd + hi, phase := .rxLenL }
  have hheader : TurnsTo (G.length + 2 + 3) s t := turnsTo_lenL hf hp hG hq'
  have hturn (a : SinkAnswer) := (engineTurn_lenLo (a := a) (s := t) hf rfl rfl rfl).trans
    (rxLenCheck_overflow hlen)
  obtain ⟨pd, hend⟩ := hheader.publish hturn hf
  exact ⟨_, pd, hend⟩

/-- Settles O38: the run from the accepted write ends with the header's four registers written. -/
theorem decodeReportsOverflow : Obligations.DecodeReportsOverflow := by
  intro s G T ver cmd hi lo answers hf hb hG hlong hq hlen
  obtain ⟨acc, pd, hrun⟩ := turnsTo_overflow (s := accept .decode s) hf rfl hG hlong hq
  refine ⟨accept .decode s, ctrlWrite_idle hf hb _, ?_⟩
  rw [hrun answers hlen]
  exact ⟨rfl, rfl, hf, rfl, rfl, rfl, rfl, rfl, rfl, rfl, rfl⟩

/-! ### A wrong checksum byte (R98, R119) -/

/-- Where a DECODE ends that received frame `f` with the wrong checksum byte `k` and `T` behind it. -/
def State.mismatched (f : Frame) (k : Byte) (T : List Byte) (i : FrameIndex) (pd : Pending)
    (s : State) : State :=
  complete .checksumMismatch false false
    { s.received f i (undrained s.params.remainderPolicy T) with
      rxCsum := some k
      calcCsum := some (frameChecksum s.params f)
      pend := pd }

/-- DECODE skips the garbage, receives the frame and ends CHECKSUM_MISMATCH, in R153's count of turns. -/
theorem turnsTo_mismatched {s : State} {G T : List Byte} {f : Frame} {k : Byte}
    (hf : s.fault = none) (hp : s.phase = .rxHunt) (hwf : f.wf = true)
    (hG : ¬ [0x55, 0xAA] <:+: G) (hk : k ≠ frameChecksum s.params f)
    (hq : s.rxq = G ++ wireBytes f k ++ T) :
    ∃ i pd, TurnsTo (G.length + 7 + f.payload.length + drainTurns s.params.remainderPolicy T) s
      (s.mismatched f k T i pd) := by
  obtain ⟨i, hrun⟩ := turnsTo_received hf hp hwf hG hq
  have hcsum (a : SinkAnswer) : engineTurn a (s.received f i (k :: T)) =
      terminal .checksumMismatch false false
        { s.received f i T with rxCsum := some k, calcCsum := some (frameChecksum s.params f) } :=
    engineTurn_csumWrong hf rfl rfl hk
  obtain ⟨pd, hend⟩ := hrun.publish hcsum hf
  rw [show G.length + 7 + f.payload.length = G.length + 6 + f.payload.length + 1 by omega]
  exact ⟨i, pd, hend⟩

/-- Settles O37: the run from the accepted write ends in `mismatched`, whose fields are the frame's. -/
theorem decodeReportsChecksumMismatch : Obligations.DecodeReportsChecksumMismatch := by
  intro s G T f k answers hf hb hwf hG hk hq hlen
  obtain ⟨i, pd, hrun⟩ := turnsTo_mismatched (s := accept .decode s) hf rfl hwf hG hk hq
  refine ⟨accept .decode s, ctrlWrite_idle hf hb _, ?_⟩
  rw [hrun answers hlen]
  exact ⟨rfl, rfl, hf, received_rxHolds hwf i k (undrained s.params.remainderPolicy T) _, rfl⟩

end Sys2Proof.Machine
end

section
/-! SUPPORT. How an operation of the transmit side ends early (60_exceptions R121, R122): TOO_LARGE at its first
turn, or SINK_REJECT at the byte the sink rejects, with the obligations about them. -/

namespace Sys2Proof.Machine

open Sys2Proof

/-! ### TX_LEN over 1024 (R121) -/

/-- Settles O46: the first turn of each of the three operations begins with the length check. -/
theorem tooLargeChangesOnlyStatus : Obligations.TooLargeChangesOnlyStatus := by
  intro s i a hf hb hlen hi
  obtain rfl | rfl | rfl := hi
  · exact ⟨accept .csumCompute s, ctrlWrite_idle hf hb _,
      (engineTurn_csumCompute (s := accept .csumCompute s) hf rfl rfl).trans
        (csumStep_tooLarge _ hlen)⟩
  · exact ⟨accept .csumValidate s, ctrlWrite_idle hf hb _,
      (engineTurn_csumValidate (s := accept .csumValidate s) hf rfl rfl).trans
        (csumStep_tooLarge _ hlen)⟩
  · exact ⟨accept .encode s, ctrlWrite_idle hf hb _,
      (engineTurn_txStart (s := accept .encode s) hf rfl).trans (txStartStep_tooLarge hlen)⟩

/-! ### The sink's reject (R115, R122) -/

/-- TX_START is about to transmit frame `f`: the length it takes and the operands are the frame's. -/
def StartsTransmission (s : State) (f : Frame) : Prop :=
  s.phase = .txStart ∧ f.wf = true ∧ s.txVer = f.version ∧ s.txCmd = f.command ∧
  s.encodeLen = BitVec.ofNat 16 f.payload.length ∧
  Memory.readRun s.mem 0x800 f.payload.length = .ok f.payload

/-- The CTRL writes of ENCODE and ENCODE_EMPTY start the transmission of their frame. -/
theorem exec_startsTransmission {s : State} {i : Instr} {f : Frame} (hf : s.fault = none)
    (hb : s.status.busy = false)
    (h : (i = .encode ∧ TxHolds s f) ∨ (i = .encodeEmpty ∧ f = ⟨s.txVer, s.txCmd, []⟩)) :
    ∃ o, exec i s = .next (accept o s) ∧ StartsTransmission (accept o s) f := by
  rcases h with ⟨rfl, hwf, hver, hcmd, hlen, hrun⟩ | ⟨rfl, rfl⟩
  · exact ⟨.encode, ctrlWrite_idle hf hb _, rfl, hwf, hver, hcmd, hlen, hrun⟩
  · exact ⟨.encodeEmpty, ctrlWrite_idle hf hb _, rfl, rfl, rfl, rfl, rfl, rfl⟩

/-- `s` at the first offer of a transmission. -/
def State.transmitting (s : State) : State :=
  { s with len := s.encodeLen, idx := 0, acc := seed s.params, phase := .txEmit }

/-- At the first offer the range and the transmit invariant hold, and the operands are the frame's. -/
theorem StartsTransmission.transmitting {s : State} {f : Frame} (h : StartsTransmission s f)
    (hf : s.fault = none) :
    (∀ a, engineTurn a s = s.transmitting) ∧ RangeInv s.transmitting ∧
      Transmits s.transmitting f := by
  obtain ⟨hp, hwf, hver, hcmd, hlen, hrun⟩ := h
  have hL : s.encodeLen.toNat = f.payload.length := by rw [hlen, frameLength_toNat hwf]
  have hle : s.encodeLen.toNat ≤ 1024 := hL ▸ frame_wf_iff.1 hwf
  refine ⟨fun a => (engineTurn_txStart hf hp).trans (txStartStep_starts hle),
    ⟨nofun, nofun, fun _ => ⟨Nat.zero_le _, hle⟩, nofun⟩, hver.symm, hcmd.symm, hL.symm, ?_⟩
  rw [← hL] at hrun
  exact hrun

/-- A reject ends the operation, whatever byte was offered. -/
theorem engineTurn_rejected {s : State} {b : Byte} (hf : s.fault = none) (hp : s.phase = .txEmit)
    (ho : s.offered = .ok b) : engineTurn .reject s = complete .sinkReject false false s := by
  simp only [engineTurn_txEmit hf hp, txEmitStep, ho]

/-- `k` accepted offers and a reject leave the first `k` bytes of the frame sent. -/
theorem engineRun_rejected {s : State} {f : Frame} {k : Nat} (hf : s.fault = none)
    (h : StartsTransmission s f) (hk : k ≤ 6 + f.payload.length) :
    ∃ acc, engineRun (List.replicate (k + 1) .accept ++ [.reject]) s =
      complete .sinkReject false false (s.transmitting.sent f k acc) := by
  obtain ⟨hstart, hr, hs⟩ := h.transmitting hf
  have ht : TransmitInv s.transmitting := txStart_transmitInv s
  obtain ⟨acc, hsent⟩ := engineRun_sent (s := s.transmitting) hf rfl rfl hr ht hs k hk
  have hru : RangeInv (s.transmitting.sent f k acc) := by
    rw [← hsent]; exact engineRun_rangeInv hr _
  have htu : TransmitInv (s.transmitting.sent f k acc) := by
    rw [← hsent]; exact engineRun_transmitInv hr ht _
  have ho := offered_eq_frameByte (s := s.transmitting.sent f k acc) rfl hru htu hs
  refine ⟨acc, ?_⟩
  rw [List.replicate_succ, List.cons_append, engineRun_cons, hstart, engineRun_append, hsent]
  exact engineTurn_rejected (s := s.transmitting.sent f k acc) hf rfl ho

/-- Settles O44: what the run of `engineRun_rejected` leaves behind. -/
theorem sinkRejectCutsTheFrame : Obligations.SinkRejectCutsTheFrame := by
  intro s i f k hf hb hi hk
  obtain ⟨o, hexec, hstart⟩ := exec_startsTransmission hf hb hi
  obtain ⟨acc, hrun⟩ := engineRun_rejected (s := accept o s) hf hstart hk
  exact ⟨accept o s, _, hexec, hrun, rfl, rfl, rfl, hf, rfl, rfl, rfl, rfl, .refl s,
    ⟨rfl, rfl, rfl, rfl, rfl, fun _ => rfl⟩, rfl, rfl, rfl, rfl⟩

end Sys2Proof.Machine
end

section
/-! SUPPORT. What marks a fault (60_exceptions R126, R127): a host read of ⊥, and an engine turn that needs an
unwritten TX_BUF byte, with the obligation about it. -/

namespace Sys2Proof.Machine

open Sys2Proof

/-! ### What leaves the fault mark -/

@[simp] theorem terminal_fault (c : Result) (v m : Bool) (s : State) :
    (terminal c v m s).fault = s.fault := by
  rcases terminal_cases c v m s with ⟨-, h⟩ | ⟨-, h⟩ <;> rw [h]
  exact complete_fault c v m s

@[simp] theorem txAccepted_fault (b : Byte) (s : State) : (txAccepted b s).fault = s.fault := by
  unfold txAccepted
  dsimp only
  split <;> split <;> rfl

@[simp] theorem rxArrive_fault (b : Byte) (s : State) : (rxArrive b s).fault = s.fault := by
  rcases rxArrive_cases b s with h | h <;> rw [h]

theorem exec_fault {i : Instr} {s t : State} (h : exec i s = .next t) : t.fault = s.fault := by
  obtain ⟨-, ⟨-, rfl⟩ | ⟨-, ⟨o, -, rfl⟩ | rfl⟩⟩ := exec_cases h <;> rfl

theorem OperandWritten.fault {s t : State} (h : OperandWritten s t) : t.fault = s.fault := by
  obtain ⟨v, rfl⟩ | ⟨v, rfl⟩ | ⟨v, rfl⟩ | ⟨v, rfl⟩ | ⟨v, rfl⟩ | ⟨n, v, -, -, rfl⟩ := h <;> rfl

@[simp] theorem registerWrite_fault (a : Addr) (v : Byte) (s : State) :
    (registerWrite a v s).fault = s.fault := by
  rcases registerWrite_cases a v s with h | ⟨-, h⟩ | ⟨-, h⟩
  · rw [h]
  · rw [h, dropWrite_fault]
  · exact h.fault

/-! ### The byte that is missing (R86, R113) -/

/-- Fault `f` is that of an unwritten TX_BUF byte below length `L`. -/
def UnwrittenBelow (s : State) (L : U16) (f : Fault) : Prop :=
  ∃ i : BufIndex, f = .unwritten (.txBuf i) ∧ Memory.read s.mem (txBufAddr i) = none ∧
    i.toNat < L.toNat

theorem txPayload_error {s : State} {L : U16} {f : Fault} (h : s.txPayload L = .error f)
    (hL : L.toNat ≤ 1024) : UnwrittenBelow s L f := by
  unfold State.txPayload at h
  split at h
  case h_1 => cases h
  case h_2 e he =>
    obtain ⟨i, hi, rfl, hnone, -⟩ := Memory.readRun_error_iff.1 he
    have hidx : (bufIndex (0x800 + i)).toNat = i := by
      rw [bufIndex_toNat]
      omega
    cases h
    refine ⟨bufIndex (0x800 + i), rfl, ?_, by rwa [hidx]⟩
    rwa [txBufAddr, hidx]

theorem orUnwritten_error {r : Storage} {o : Option Byte} {f : Fault}
    (h : orUnwritten r o = .error f) : f = .unwritten r ∧ o = none := by
  cases o with
  | none => cases h; exact ⟨rfl, rfl⟩
  | some v => cases h

theorem offered_error {s : State} {f : Fault} (h : s.offered = .error f)
    (hlen : s.len.toNat ≤ 1024) : UnwrittenBelow s s.len f := by
  unfold State.offered at h
  split at h
  case h_7 n hn =>
    split at h
    · obtain ⟨hf, hnone⟩ := orUnwritten_error h
      refine ⟨bufIndex n, hf, hnone, ?_⟩
      rw [bufIndex_toNat]
      omega
    · cases h
  all_goals cases h

/-! ### Who faults (R126) -/

/-- An engine turn leaves the fault mark, or is a turn of a checksum or of an offer that lacks a byte. -/
theorem TurnEffect.fault_cases {s t : State} (h : TurnEffect s t) :
    t.fault = s.fault ∨ ∃ f, t.fault = some f ∧
      ((s.phase = .cs ∧ (s.op = .csumCompute ∨ s.op = .csumValidate) ∧
          s.txLen.toNat ≤ 1024 ∧ s.txPayload s.txLen = .error f) ∨
        (s.phase = .txEmit ∧ s.offered = .error f)) := by
  cases h with
  | csumFault f hp ho hlen he => exact .inr ⟨f, rfl, .inl ⟨hp, ho, hlen, he⟩⟩
  | txFault f hp he => exact .inr ⟨f, rfl, .inr ⟨hp, he⟩⟩
  | overflow | csumOk | csumWrong => exact .inl (terminal_fault _ _ _ _)
  | txAccept b => exact .inl (txAccepted_fault b s)
  | _ => exact .inl rfl

theorem phaseFits_txEmit {o : Operation} (h : phaseFits o .txEmit = true) :
    o = .encode ∨ o = .encodeEmpty := by
  cases o with
  | encode => exact .inl rfl
  | encodeEmpty => exact .inr rfl
  | none | csumCompute | csumValidate | decode => cases h

/-- Under the invariants an offer that lacks its byte is ENCODE's, below TX_LEN: ENCODE_EMPTY's length is 0
(R111). -/
theorem offered_error_encode {s : State} {f : Fault} (hc : ControlInv s) (ht : TransmitInv s)
    (hp : s.phase = .txEmit) (he : s.offered = .error f) :
    s.op = .encode ∧ UnwrittenBelow s s.txLen f := by
  obtain ⟨⟨-, hfits, -⟩, ⟨-, -, hemit, -⟩, -⟩ := hc
  obtain ⟨-, hle⟩ := hemit hp
  obtain ⟨hlen, -⟩ := ht hp
  have hbelow := offered_error he hle
  rcases phaseFits_txEmit (hp ▸ hfits) with ho | ho
  · rw [hlen, encodeLen_of_ne (by simp [ho])] at hbelow
    exact ⟨ho, hbelow⟩
  · rw [hlen, encodeLen_encodeEmpty ho] at hbelow
    obtain ⟨i, -, -, hi⟩ := hbelow
    exact absurd hi (Nat.not_lt_zero _)

/-- Settles O60, agent by agent: beside a host read and an engine turn every action leaves the fault mark. -/
theorem onlyUnwrittenStorageFaults : Obligations.OnlyUnwrittenStorageFaults := by
  intro a s t f hc ht hf hact htf
  have hmark (h : t.fault = s.fault) : False := by
    rw [h, hf] at htf
    cases htf
  obtain ⟨addr, rfl, rfl⟩ | ⟨v, rfl, hx⟩ | ⟨addr, v, rfl, -, rfl⟩ | ⟨rfl, rfl⟩ |
    ⟨b, rfl, rfl⟩ | ⟨ans, rfl, rfl⟩ := act_cases hact
  · rcases hostRead_cases addr s with ⟨v, -, h⟩ | ⟨g, he, h⟩
    · exact (hmark (by rw [h])).elim
    · rw [h] at htf
      cases htf
      exact .inl ⟨addr, rfl, he⟩
  · exact (hmark (exec_fault hx)).elim
  · exact (hmark (registerWrite_fault addr v s)).elim
  · exact (hmark (resetFce_fault s)).elim
  · exact (hmark (rxArrive_fault b s)).elim
  · obtain h | ⟨g, hg, hcause⟩ := (engineTurn_effect ans s).fault_cases
    · exact (hmark h).elim
    · obtain rfl : g = f := Option.some.inj (hg.symm.trans htf)
      rcases hcause with ⟨hp, ho, hlen, he⟩ | ⟨hp, he⟩
      · obtain ⟨i, hi, hnone, hlt⟩ := txPayload_error he hlen
        exact .inr ⟨ans, i, rfl, hi, hnone, hlt, .inl ⟨hp, ho⟩⟩
      · obtain ⟨ho, i, hi, hnone, hlt⟩ := offered_error_encode hc ht hp he
        exact .inr ⟨ans, i, rfl, hi, hnone, hlt, .inr ⟨hp, ho⟩⟩

end Sys2Proof.Machine
end

section
/-! SUPPORT. Reset, the start of a run (70_reset_and_hazards R138, R139), and what a frame meets at a receiver
whose CSUM_INCLUDES_SYNC is not its sender's (R151), with the obligations about them. -/

namespace Sys2Proof.Machine

open Sys2Proof

/-! ### Reset (R138) -/

/-- Settles O21: the reset action's state is that of `resetFce`, field by field. -/
theorem resetSetsEveryPiece : Obligations.ResetSetsEveryPiece :=
  fun _ => ⟨rfl, Memory.read_nil, by decide⟩

/-! ### The start of a run (R139) -/

/-- Reset has nothing to change at the start of a run. -/
theorem resetFce_launch (p : Params) (q : List Byte) (ag : List Action) :
    resetFce (State.launch p q ag) = State.launch p q ag := rfl

/-- Settles O22: the launch state is a fixed point of reset, and its engine is idle. -/
theorem runsStartInTheResetState : Obligations.RunsStartInTheResetState :=
  fun p q ag => ⟨resetFce_launch p q ag, rfl, rfl, rfl, rfl, fun _ => engineTurn_idle rfl⟩

/-- Settles O54: every reset state has the invariants, and a run starts in one. -/
theorem runsStartWithTheInvariants : Obligations.RunsStartWithTheInvariants := by
  intro p q ag
  rw [← resetFce_launch p q ag]
  exact ⟨resetFce_controlInv _, resetFce_receiveInv _, transmitInv_of_phase nofun⟩

/-! ### Two checksums of one frame (R151) -/

/-- SEED is 0xFF with the sync bytes and 0x00 without them (R82), so the checksums differ by 0xFF. -/
theorem frameChecksum_sync {p q : Params} (hp : p.csumIncludesSync = true)
    (hq : q.csumIncludesSync = false) (f : Frame) :
    frameChecksum p f = frameChecksum q f + 0xFF := by
  have hseed : seed p = seed q + 0xFF := by simp [seed, hp, hq]
  simp only [frameChecksum, checksum_eq_sum8, hseed, add_right_comm]

theorem frameChecksum_ne {p q : Params} (h : p.csumIncludesSync ≠ q.csumIncludesSync) (f : Frame) :
    frameChecksum p f ≠ frameChecksum q f := by
  have hff (c : Byte) : c + 0xFF ≠ c := fun hc => absurd (add_eq_left.1 hc) (by decide)
  cases hp : p.csumIncludesSync with
  | true =>
    rw [frameChecksum_sync hp (by simpa [hp] using h)]
    exact hff _
  | false =>
    rw [frameChecksum_sync (p := q) (q := p) (by simpa [hp] using h) hp]
    exact (hff _).symm

/-! ### DECODE of exactly the frame sent (R151) -/

/-- What ENCODE sends, as the wire bytes a receiver with another seed sees (R61). -/
theorem frameBytes_eq_wireBytes (p : Params) (f : Frame) :
    frameBytes p f = wireBytes f (frameChecksum p f) := rfl

/-- With no byte left to drain, one turn more than the frame's bytes ends a DECODE under either policy. -/
theorem TurnsTo.within_drainTurn {n : Nat} {p : RemainderPolicy} {s t : State}
    (h : TurnsTo (n + drainTurns p []) s t) (hp : t.phase = .idle) : TurnsTo (n + 1) s t := by
  cases p with
  | discard => exact h
  | retain => exact h.idle hp

/-- A frame alone in RXQ, sent under the other sync setting, ends CHECKSUM_MISMATCH. -/
theorem turnsTo_mismatched_alone {p : Params} {s : State} {f : Frame} (hf : s.fault = none)
    (hp : s.phase = .rxHunt) (hwf : f.wf = true)
    (hsync : s.params.csumIncludesSync ≠ p.csumIncludesSync) (hq : s.rxq = frameBytes p f) :
    ∃ i pd, TurnsTo (8 + f.payload.length) s (s.mismatched f (frameChecksum p f) [] i pd) := by
  have hq' : s.rxq = [] ++ wireBytes f (frameChecksum p f) ++ [] := by
    rw [hq, frameBytes_eq_wireBytes, List.nil_append, List.append_nil]
  obtain ⟨i, pd, hrun⟩ := turnsTo_mismatched hf hp hwf (by decide) (frameChecksum_ne hsync.symm f) hq'
  refine ⟨i, pd, ?_⟩
  rw [show 8 + f.payload.length = ([] : List Byte).length + 7 + f.payload.length + 1 by
    rw [List.length_nil]; omega]
  exact hrun.within_drainTurn rfl

/-- Settles O48: the seeds give the difference, which makes the sent checksum byte wrong at the receiver. -/
theorem differentSyncSettingsMismatch : Obligations.DifferentSyncSettingsMismatch := by
  intro p r f answers hwf hf hb hsync hq hlen
  refine ⟨fun hr => frameChecksum_sync hr (by simpa [hr] using hsync) f,
    fun hp => frameChecksum_sync hp (by simpa [hp] using hsync) f,
    accept .decode r, ctrlWrite_idle hf hb _, ?_⟩
  obtain ⟨i, pd, hrun⟩ := turnsTo_mismatched_alone (s := accept .decode r) hf rfl hwf hsync hq
  rw [hrun answers hlen]
  exact ⟨rfl, rfl⟩

end Sys2Proof.Machine
end
